-- ==== Sys2Proof/Word.lean ====
section
/-! DEFINITION. The word types of the engine (00_scope.md R6, R8). -/

namespace Sys2Proof

/-- Every engine register, every hash value and every digest: 32 bits, unsigned (00_scope.md R6). -/
abbrev Word := BitVec 32

/-- One byte of a key (00_scope.md R11). -/
abbrev Byte := BitVec 8

/-- A byte offset inside the 4096-byte register window (00_scope.md R6, 20_memory.md R50). -/
abbrev Offset := BitVec 12

end Sys2Proof
end

