-- ==== Sys2Proof/Syntax.lean ====
section
/-! DEFINITION. What a host can say to the engine: the five commands (30_encoding.md R70 to R72, R78) and the port's
transactions (30_encoding.md R76). -/

namespace Sys2Proof

/-- The commands, one constructor per row of the opcode table (30_encoding.md R71). -/
inductive Instr where
  | nop
  | start
  /-- CNT, a 2-bit unsigned field: the command appends `CNT + 1` bytes (30_encoding.md R72). -/
  | push (cnt : BitVec 2)
  | finish
  | abort
deriving DecidableEq, Repr

/-- The assembler's mnemonic (30_encoding.md R78): `PUSH.n` with `n = CNT + 1`. -/
def Instr.mnemonic : Instr → String
  | .nop => "NOP"
  | .start => "START"
  | .push cnt => "PUSH." ++ toString (cnt.toNat + 1)
  | .finish => "FINISH"
  | .abort => "ABORT"

/-- The width of a port transaction: the widths 20_memory.md R53 names. -/
inductive AccessWidth where
  | bits8
  | bits16
  | bits32
  | bits64
  | burst
deriving DecidableEq, Repr

/-- One transaction at the host register port: the direction, the byte offset and, for a write, the value
(20_memory.md R50, 30_encoding.md R76). `data` means something only at width `bits32`, the only width with a meaning. -/
inductive Transaction where
  | read (width : AccessWidth) (off : Offset)
  | write (width : AccessWidth) (off : Offset) (data : Word)
deriving DecidableEq, Repr

def Transaction.width : Transaction → AccessWidth
  | .read width _ => width
  | .write width _ _ => width

def Transaction.off : Transaction → Offset
  | .read _ off => off
  | .write _ off _ => off

end Sys2Proof
end

