-- ==== Sys2Proof/WellFormed.lean ====
section
/-! DEFINITION. The checks on what a host says: commands, and the transactions a port admits. -/

namespace Sys2Proof

/-- Every command is well formed: CNT is a 2-bit field by type, and no other command has an operand
(30_encoding.md R72). -/
def Instr.wellFormed : Instr → Bool
  | .nop => true
  | .start => true
  | .push _ => true
  | .finish => true
  | .abort => true

/-- Only 32-bit reads and writes have a meaning (20_memory.md R53). -/
def Transaction.widthOk (t : Transaction) : Bool := t.width == .bits32

/-- Only an offset that is a multiple of 4 has a meaning (20_memory.md R54). -/
def Transaction.aligned (t : Transaction) : Bool := t.off.toNat % 4 == 0

/-- An admitted transaction (20_memory.md R57, R63, R64). -/
def Transaction.admitted (t : Transaction) : Bool := t.widthOk && t.aligned

end Sys2Proof
end

