-- ==== Sys2Proof/Decode.lean ====
section
/-! DEFINITION. The command word (30_encoding.md R70 to R77): its fields, legality, the decoder, total on 32-bit words and
rejecting by name, the encoder, and the opcode map as rows. -/

namespace Sys2Proof

/-- OP = [3:0] (30_encoding.md R70). -/
def opField (w : Word) : BitVec 4 := w.extractLsb' 0 4

/-- CNT = [5:4] (30_encoding.md R70). -/
def cntField (w : Word) : BitVec 2 := w.extractLsb' 4 2

/-- RSV = [31:6] (30_encoding.md R70). -/
def rsvField (w : Word) : BitVec 26 := w.extractLsb' 6 26

/-- `legal` of 30_encoding.md R73. -/
def legal (w : Word) : Bool :=
  if opField w = 0x2#4 then rsvField w == 0#26
  else if opField w = 0x0#4 ∨ opField w = 0x1#4 ∨ opField w = 0x3#4 ∨ opField w = 0x4#4 then
    w.extractLsb' 4 28 == 0#28
  else false

/-- Why a word is illegal: the three cases 30_encoding.md R74 lists. The engine itself records only ERR_ILLEGAL, and the
word is not captured (60_exceptions.md R163). -/
inductive Illegal where
  /-- OP 0x5..0xF. -/
  | unknownOp
  /-- A nonzero CNT on an OP other than PUSH. -/
  | nonzeroCnt
  /-- A nonzero RSV bit. -/
  | nonzeroRsv
deriving DecidableEq, Repr

/-- The first of 30_encoding.md R74's cases that holds of a word that is not legal (log entry 13). -/
def illegalReason (w : Word) : Illegal :=
  if 5 ≤ (opField w).toNat then .unknownOp
  else if opField w ≠ 0x2#4 ∧ cntField w ≠ 0#2 then .nonzeroCnt
  else .nonzeroRsv

/-- `decode` of 30_encoding.md R73. -/
def decode (w : Word) : Except Illegal Instr :=
  if legal w then
    if opField w = 0x0#4 then .ok .nop
    else if opField w = 0x1#4 then .ok .start
    else if opField w = 0x2#4 then .ok (.push (cntField w))
    else if opField w = 0x3#4 then .ok .finish
    else .ok .abort
  else .error (illegalReason w)

/-- OP of a command (30_encoding.md R71). -/
def Instr.op : Instr → BitVec 4
  | .nop => 0x0#4
  | .start => 0x1#4
  | .push _ => 0x2#4
  | .finish => 0x3#4
  | .abort => 0x4#4

/-- CNT of a command: 0 for every OP but PUSH (30_encoding.md R70). -/
def Instr.cnt : Instr → BitVec 2
  | .nop => 0#2
  | .start => 0#2
  | .push cnt => cnt
  | .finish => 0#2
  | .abort => 0#2

/-- The word of a command: RSV = 0, CNT, OP, from the most significant bit down (30_encoding.md R70, R77). -/
def encode (i : Instr) : Word := 0#26 ++ i.cnt ++ i.op

/-- One row of the opcode map: a word is of the row when its bits under `mask` are those of `pattern`. -/
structure OpcodeRow where
  mnemonic : String
  pattern : Word
  mask : Word
deriving DecidableEq, Repr

def OpcodeRow.covers (r : OpcodeRow) (w : Word) : Bool := w &&& r.mask == r.pattern

/-- The opcode map (30_encoding.md R71, R77; opcode_table.json). -/
def opcodeTable : List OpcodeRow :=
  [ ⟨"NOP", 0x00000000#32, 0xFFFFFFFF#32⟩,
    ⟨"START", 0x00000001#32, 0xFFFFFFFF#32⟩,
    ⟨"PUSH", 0x00000002#32, 0xFFFFFFCF#32⟩,
    ⟨"FINISH", 0x00000003#32, 0xFFFFFFFF#32⟩,
    ⟨"ABORT", 0x00000004#32, 0xFFFFFFFF#32⟩ ]

/-- The row of the opcode map a command belongs to. -/
def Instr.rowName : Instr → String
  | .nop => "NOP"
  | .start => "START"
  | .push _ => "PUSH"
  | .finish => "FINISH"
  | .abort => "ABORT"

/-- The rows of the opcode map that cover a word. -/
def rowsOf (w : Word) : List String := (opcodeTable.filter fun r => r.covers w).map fun r => r.mnemonic

/-- The host's question about one row: a command is one 32-bit word, and the port takes it as a number, so no byte order
comes in (30_encoding.md R75, 20_memory.md R56). Bits from `nbits` up are 0; a word that does not fit 32 bits is no command. -/
def decodeTableWord (nbits w : Nat) : Option Instr :=
  if w % 2 ^ nbits < 2 ^ 32 then
    match decode (BitVec.ofNat 32 (w % 2 ^ nbits)) with
    | .ok i => some i
    | .error _ => none
  else none

end Sys2Proof
end

