-- ==== Sys2Proof/Config.lean ====
section
/-! DEFINITION. What an implementation fixes (K_MAX, BASE) and the free values.
The `opaque` constants have no body: nothing can evaluate them, so a claim holds for every value. -/

namespace Sys2Proof.Config

/-- The number of the last lane. K_MAX is an open parameter with `1 ≤ K_MAX ≤ 256` (00_scope.md R4);
drawn as its predecessor, so that the range holds by type (log entry 5). -/
opaque lastLane : Fin 256

/-- K_MAX, the number of parallel hash lanes (00_scope.md R4). -/
def kMax : Nat := lastLane.val + 1

/-- Which 4096-byte window of the bus is the engine's. BASE is an open parameter, a multiple of 4096
(00_scope.md R5); drawn as its quotient by 4096, so that this holds by construction (log entry 6). -/
opaque window : Nat

/-- BASE, the bus address of the register window (00_scope.md R5). -/
def base : Nat := 4096 * window

/-- What a reduction by `Mbits = 0` would give. The spec never applies one (00_scope.md R9), so no value is known
(log entry 20). -/
opaque reduceByZero : Word → Word

/-- The draws of 20_memory.md R63, `freeWord n` the n-th of them: any 32-bit values (log entry 4). -/
opaque freeWord : Nat → Word

end Sys2Proof.Config
end

