-- ==== Sys2Proof/Machine/State.lean ====
section
/-! DEFINITION. The engine's state (10_state.md), the events of an execution (20_memory.md R58), the machine's state, the
reasons a step can stop, and the state after reset (10_state.md R44). -/

namespace Sys2Proof.Machine

/-- PHASE (10_state.md R29). The value 3 is "not produced by any rule" and has no constructor. -/
inductive Phase where
  | idle
  | absorb
  | done
deriving DecidableEq, Repr

/-- ERRCODE (10_state.md R30). The values 7..15 are "not produced by any rule" and have no constructor. -/
inductive ErrCode where
  | noError
  | busy
  | illegal
  | seq
  | cfgK
  | cfgSize
  | len
deriving DecidableEq, Repr

/-- A latched command (10_state.md R41): its operands are the values read at issue (42_commands.md R141). -/
inductive Command where
  | nop
  | start (k size seed : Word)
  | push (cnt : BitVec 2) (data : Word)
  | finish
  | abort
deriving DecidableEq, Repr

/-- The complete state of an engine with `K` lanes (10_state.md R20), `K` standing for K_MAX. -/
structure Engine (K : Nat) where
  /-- CFG_K (10_state.md R23). -/
  cfgK : Word
  /-- CFG_SIZE (10_state.md R24). -/
  cfgSize : Word
  /-- SEED (10_state.md R25). -/
  seed : Word
  /-- KEYDATA (10_state.md R26). -/
  keydata : Word
  /-- PHASE (10_state.md R29). -/
  phase : Phase
  /-- ERRCODE (10_state.md R30). -/
  errcode : ErrCode
  /-- KEY, in key order (10_state.md R40). -/
  key : List Byte
  /-- PENDING (10_state.md R41). -/
  pending : Option Command
  /-- ACT_K (10_state.md R33). -/
  actK : Word
  /-- ACT_SIZE (10_state.md R34). -/
  actSize : Word
  /-- ACT_SEED (10_state.md R35). -/
  actSeed : Word
  /-- DIGEST[0..K-1] (10_state.md R37). -/
  digest : Vector Word K
  /-- BITIDX[0..K-1] (10_state.md R38). -/
  bitidx : Vector Word K
deriving DecidableEq, Repr

/-- The reset value of every element (10_state.md R44). -/
def Engine.reset (K : Nat) : Engine K where
  cfgK := 1#32
  cfgSize := 1#32
  seed := 0#32
  keydata := 0#32
  phase := .idle
  errcode := .noError
  key := []
  pending := none
  actK := 0#32
  actSize := 0#32
  actSeed := 0#32
  digest := Vector.replicate K 0#32
  bitidx := Vector.replicate K 0#32

/-- An event of the one total order of an execution (20_memory.md R58). -/
inductive Event where
  /-- A host's transaction, of whichever host (20_memory.md R60). -/
  | host (t : Transaction)
  /-- The engine's turn: its engine step, if one is enabled (42_commands.md R142). -/
  | engine
  /-- The reset input (70_reset_and_hazards.md R180). -/
  | reset
deriving DecidableEq, Repr

/-- The machine: the engine, and three fields of the model's own, which the engine does not have. -/
structure State extends Engine Config.kMax where
  /-- The events still to come, in the order of 20_memory.md R58. When none is left, the next turn is the engine's, as weak
  fairness asks (70_reset_and_hazards.md R189; log entry 1). -/
  schedule : List Event
  /-- What the port returned for the most recent read, `none` before the first (30_encoding.md R76; log entry 7). -/
  readData : Option Word
  /-- The index of the next draw (20_memory.md R63; log entry 4). -/
  draws : Nat
deriving DecidableEq, Repr

/-- The machine right after reset (10_state.md R44, 70_reset_and_hazards.md R182), with no event yet to come. -/
def State.reset : State where
  toEngine := Engine.reset Config.kMax
  schedule := []
  readData := none
  draws := 0

/-- No command and no transaction stops this machine with a fault: an error is recorded in ERRCODE and never trapped
(60_exceptions.md R160). So there is no constructor. Safe: nothing raises it. -/
inductive Fault
deriving DecidableEq, Repr

/-- Why a step has no meaning. -/
inductive Refusal where
  /-- An instruction with no meaning in this model. Raised by no arm of `exec`: every command has its meaning. Safe. -/
  | notModelled (mnemonic : String)
  /-- A transaction that is not 32 bits wide: "has no meaning in this spec. A model refuses it" (20_memory.md R53).
  Raised by `transact`. Safe. -/
  | unsupportedWidth
  /-- A transaction with `off mod 4 ≠ 0`: "has no meaning in this spec, and a model refuses it" (20_memory.md R54).
  Raised by `transact`. Safe. -/
  | misaligned
deriving DecidableEq, Repr

end Sys2Proof.Machine
end

