-- ==== Sys2Proof/Machine/Ops.lean ====
section
/-! DEFINITION. The shared operations of the engine: recording an error (this hardware's exception entry, 60_exceptions.md
R161), the return from it (R170), clearing the lanes, latching operands and issuing a command (42_commands.md R140, R141). -/

namespace Sys2Proof.Machine

/-- The command of the opcode table that a latched command is. -/
def Command.instr : Command → Instr
  | .nop => .nop
  | .start _ _ _ => .start
  | .push cnt _ => .push cnt
  | .finish => .finish
  | .abort => .abort

namespace Engine

variable {K : Nat}

/-- `record Err(code)`: the first error stays (60_exceptions.md R161). -/
def recordErr (code : ErrCode) (e : Engine K) : Engine K :=
  if e.errcode = .noError then { e with errcode := code } else e

/-- Poisoned: `ERRCODE ≠ 0` (60_exceptions.md R161). -/
def poisoned (e : Engine K) : Bool := e.errcode != .noError

/-- Every DIGEST and BITIDX to 0 (10_state.md R37, R38). -/
def clearLanes (e : Engine K) : Engine K :=
  { e with digest := Vector.replicate K 0#32, bitidx := Vector.replicate K 0#32 }

/-- Recovery (60_exceptions.md R170): every engine-owned element to its reset value (42_commands.md R148). -/
def recover (e : Engine K) : Engine K :=
  { e.clearLanes with
    key := [], actK := 0#32, actSize := 0#32, actSeed := 0#32, phase := .idle, errcode := .noError }

/-- `latch`: the operands are read from the operand registers at the moment of issue (42_commands.md R141). -/
def latch (e : Engine K) : Instr → Command
  | .nop => .nop
  | .start => .start e.cfgK e.cfgSize e.seed
  | .push cnt => .push cnt e.keydata
  | .finish => .finish
  | .abort => .abort

/-- `Issue(w)` (42_commands.md R140): busy is checked before legality (60_exceptions.md R168). -/
def issue (w : Word) (e : Engine K) : Engine K :=
  match e.pending with
  | some _ => e.recordErr .busy
  | none =>
    match decode w with
    | .error _ => e.recordErr .illegal
    | .ok i => { e with pending := some (e.latch i) }

end Engine

end Sys2Proof.Machine
end

