-- ==== Sys2Proof/Machine/Operands.lean ====
section
/-! DEFINITION. Operands: the little-endian assembly of bytes (00_scope.md R11), the byte lanes of KEYDATA (20_memory.md R56),
the operands of START and PUSH (42_commands.md R141), and the lane seeds (41_address_decoder.md R120). -/

namespace Sys2Proof.Machine

/-- `le32` (00_scope.md R11): the first byte is the least significant. -/
def le32 (b0 b1 b2 b3 : Byte) : Word :=
  b0.setWidth 32 ||| b1.setWidth 32 <<< 8 ||| b2.setWidth 32 <<< 16 ||| b3.setWidth 32 <<< 24

/-- Byte lane `j` of KEYDATA, bits [8j+7:8j] (10_state.md R26, 20_memory.md R56). -/
def byteLane (data : Word) (j : Nat) : Byte := data.extractLsb' (8 * j) 8

/-- The byte count of a PUSH: `zext(CNT) + 1` (30_encoding.md R72). -/
def pushCount (cnt : BitVec 2) : Nat := cnt.toNat + 1

/-- The bytes a PUSH appends: lanes 0, 1, ..., n-1 in that order (42_commands.md R146). -/
def pushBytes (cnt : BitVec 2) (data : Word) : List Byte := (List.range (pushCount cnt)).map (byteLane data)

/-- Lane `i` hashes with seed `ACT_SEED +32 i` (41_address_decoder.md R120). -/
def laneSeed (actSeed : Word) (i : Nat) : Word := actSeed + BitVec.ofNat 32 i

namespace Engine

variable {K : Nat}

/-- START's operands `(k, size, seed)`: those latched in PENDING. When PENDING holds no START, the engine step is not one of
START at all, and what an issue would latch now stands in (log entry 3). -/
def startOperands (e : Engine K) : Word × Word × Word :=
  match e.pending with
  | some (.start k size seed) => (k, size, seed)
  | _ => (e.cfgK, e.cfgSize, e.seed)

/-- PUSH's `data`: the KEYDATA latched in PENDING; log entry 3 as for `startOperands`. -/
def pushData (cnt : BitVec 2) (e : Engine K) : Word :=
  match e.pending with
  | some (.push cnt' data) => if cnt' = cnt then data else e.keydata
  | _ => e.keydata

end Engine

end Sys2Proof.Machine
end

