-- ==== Sys2Proof/Machine/ControlCommands.lean ====
section
/-! DEFINITION. The commands that do not touch the key (42_commands.md R151): NOP and ABORT. They act poisoned or not
(42_commands.md R143). -/

namespace Sys2Proof.Machine

/-- `Exec(NOP)`: nothing (42_commands.md R144). -/
def execNop (s : State) : Host.Outcome State Fault Refusal := .next s

/-- `Exec(ABORT)`: return to IDLE and clear the error (42_commands.md R148). -/
def execAbort (s : State) : Host.Outcome State Fault Refusal := .next { s with toEngine := s.toEngine.recover }

end Sys2Proof.Machine
end

