-- ==== Sys2Proof/Machine/Hash.lean ====
section
/-! DEFINITION. Murmur3 x86_32, `hash32(key, seed)`, rule by rule (40_murmur3_hash.md R100 to R111), and the streaming form of
R113. -/

namespace Sys2Proof.Machine

/-- `rotl(x, r)` for `1 ≤ r ≤ 31` (00_scope.md R10). -/
def rotl (x : Word) (r : Nat) : Word := x <<< r ||| x >>> (32 - r)

/-! The constants of 40_murmur3_hash.md R101. -/

def Murmur.c1 : Word := 0xcc9e2d51#32
def Murmur.c2 : Word := 0x1b873593#32
def Murmur.r1 : Nat := 15
def Murmur.r2 : Nat := 13
def Murmur.m : Word := 5#32
def Murmur.n : Word := 0xe6546b64#32
def Murmur.f1 : Word := 0x85ebca6b#32
def Murmur.f2 : Word := 0xc2b2ae35#32

/-- `mixK`, the chunk mix (40_murmur3_hash.md R102). -/
def mixK (k : Word) : Word := rotl (k * Murmur.c1) Murmur.r1 * Murmur.c2

/-- `mixH`, the running-hash mix: the standard body step (40_murmur3_hash.md R103, 90_conflicts.md C1; log entry 11). -/
def mixH (h : Word) : Word := rotl h Murmur.r2 * Murmur.m + Murmur.n

/-- The body block step for one chunk (40_murmur3_hash.md R104). -/
def blockStep (h chunk : Word) : Word := mixH (h ^^^ mixK chunk)

/-- `chunk(b)`: bytes 4b to 4b+3, little-endian (40_murmur3_hash.md R105). -/
def chunk (key : List Byte) (b : Nat) : Word :=
  le32 (key.getD (4 * b) 0) (key.getD (4 * b + 1) 0) (key.getD (4 * b + 2) 0) (key.getD (4 * b + 3) 0)

/-- `nblocks = L div 4` (40_murmur3_hash.md R105). -/
def nblocks (key : List Byte) : Nat := key.length / 4

/-- The body loop: chunks 0 to nblocks-1 in increasing order, from `h = seed` (40_murmur3_hash.md R106). -/
def bodyHash (key : List Byte) (seed : Word) : Word :=
  (List.range (nblocks key)).foldl (fun h b => blockStep h (chunk key b)) seed

/-- The tail value: the loop of 40_murmur3_hash.md R107, `j` from r-1 down to 0. -/
def tailValue (key : List Byte) : Word :=
  (List.range (key.length % 4)).foldr
    (fun j t => t ^^^ (key.getD (4 * nblocks key + j) 0).setWidth 32 <<< (8 * j)) 0#32

/-- `fmix`, the finalizer (40_murmur3_hash.md R110). -/
def fmix (h : Word) : Word :=
  let h := h ^^^ h >>> 16
  let h := h * Murmur.f1
  let h := h ^^^ h >>> 13
  let h := h * Murmur.f2
  h ^^^ h >>> 16

/-- `hash32` (40_murmur3_hash.md R111): body, tail mix (R108), length fold (R109), finalizer. -/
def hash32 (key : List Byte) (seed : Word) : Word :=
  fmix (bodyHash key seed ^^^ mixK (tailValue key) ^^^ BitVec.ofNat 32 key.length)

/-- The hidden state of an implementation that does not store KEY, for one lane (40_murmur3_hash.md R113). -/
structure Stream where
  /-- `T`, the pending bytes, 0 to 3 of them. -/
  buf : List Byte
  /-- `Lc`, the length, a 32-bit value. -/
  len : Word
  /-- `h_i`, the lane's running hash. -/
  h : Word
deriving DecidableEq, Repr

/-- "on START" (40_murmur3_hash.md R113). -/
def streamStart (laneSeed : Word) : Stream := ⟨[], 0#32, laneSeed⟩

/-- "on append b" (40_murmur3_hash.md R113). -/
def streamAppend (s : Stream) (b : Byte) : Stream :=
  match s.buf with
  | [b0, b1, b2] => ⟨[], s.len + 1#32, blockStep s.h (le32 b0 b1 b2 b)⟩
  | buf => ⟨buf ++ [b], s.len + 1#32, s.h⟩

/-- "on FINISH" (40_murmur3_hash.md R113). -/
def streamFinish (s : Stream) : Word :=
  fmix (s.h ^^^ mixK (le32 (s.buf.getD 0 0) (s.buf.getD 1 0) (s.buf.getD 2 0) (s.buf.getD 3 0)) ^^^ s.len)

end Sys2Proof.Machine
end

