-- ==== Sys2Proof/Machine/Address.lean ====
section
/-! DEFINITION. The bit-position address decoder (41_address_decoder.md R120 to R128). -/

namespace Sys2Proof.Machine

/-- `Mbits = 8 * ACT_SIZE`, an exact natural number (41_address_decoder.md R121). -/
def mbits (size : Word) : Nat := 8 * size.toNat

/-- `BITIDX = DIGEST mod Mbits`, unsigned (41_address_decoder.md R122). With `size = 0`, which START refuses, the value is
free (log entry 20). -/
def bitIndex (digest size : Word) : Word :=
  if size = 0#32 then Config.reduceByZero digest else BitVec.ofNat 32 (digest.toNat % mbits size)

/-- The byte index of BucketInfo, BITIDX[31:3] (41_address_decoder.md R123). -/
def bucketIndex (bitidx : Word) : BitVec 29 := bitidx.extractLsb' 3 29

/-- The bit position of BucketInfo, BITIDX[2:0] (41_address_decoder.md R123). -/
def bucketPosition (bitidx : Word) : BitVec 3 := bitidx.extractLsb' 0 3

/-- BLOOM's `buckets(k, size)(x)` over natural numbers, round `i` with seed `i` (41_address_decoder.md R128 and the quotation
at the head of that file; 95_test_vectors.md E2). It is what the engine must agree with, not what the engine runs. -/
def buckets (k : Nat) (size : Nat) (x : List Byte) : List (Nat × Nat) :=
  (List.range k).map fun i =>
    let bit := (hash32 x (BitVec.ofNat 32 i)).toNat % (size * 8)
    (bit / 8, bit % 8)

end Sys2Proof.Machine
end

