-- ==== Sys2Proof/Machine/KeyCommands.lean ====
section
/-! DEFINITION. The commands on a key: START, PUSH and FINISH (42_commands.md R145 to R147). Each checks for poisoning first
(42_commands.md R143), and one that records an error changes nothing but ERRCODE (60_exceptions.md R169). -/

namespace Sys2Proof.Machine

namespace Engine

variable {K : Nat}

/-- The longest key, in bytes: 2^32 - 1 (10_state.md R40). -/
def maxKeyLength : Nat := 0xFFFFFFFF

/-- START's effect once its operands are legal (42_commands.md R145). -/
def beginKey (k size seed : Word) (e : Engine K) : Engine K :=
  { e.clearLanes with actK := k, actSize := size, actSeed := seed, key := [], phase := .absorb }

/-- `Exec(START(k, size, seed))` (42_commands.md R145): `k` is checked before `size` (60_exceptions.md R168). -/
def start (k size seed : Word) (e : Engine K) : Engine K :=
  if e.poisoned then e
  else if k = 0#32 ∨ K < k.toNat then e.recordErr .cfgK
  else if size = 0#32 then e.recordErr .cfgSize
  else e.beginKey k size seed

/-- `Exec(PUSH(cnt, data))` (42_commands.md R146): the phase is checked before the length (60_exceptions.md R168). -/
def push (cnt : BitVec 2) (data : Word) (e : Engine K) : Engine K :=
  if e.poisoned then e
  else if e.phase ≠ .absorb then e.recordErr .seq
  else if maxKeyLength < e.key.length + pushCount cnt then e.recordErr .len
  else { e with key := e.key ++ pushBytes cnt data }

/-- DIGEST of lane `i` as FINISH computes it (42_commands.md R147). -/
def laneDigest (e : Engine K) (i : Nat) : Word := hash32 e.key (laneSeed e.actSeed i)

/-- FINISH's effect in ABSORB: the active lanes are written, in parallel, and no other (42_commands.md R147, 10_state.md R39). -/
def closeKey (e : Engine K) : Engine K :=
  { e with
    digest := Vector.ofFn fun i => if i.val < e.actK.toNat then e.laneDigest i.val else e.digest[i]
    bitidx := Vector.ofFn fun i =>
      if i.val < e.actK.toNat then bitIndex (e.laneDigest i.val) e.actSize else e.bitidx[i]
    phase := .done }

/-- `Exec(FINISH)` (42_commands.md R147). -/
def finish (e : Engine K) : Engine K :=
  if e.poisoned then e
  else if e.phase ≠ .absorb then e.recordErr .seq
  else e.closeKey

end Engine

/-- START on the machine, with its latched operands (42_commands.md R141, R145). -/
def execStart (s : State) : Host.Outcome State Fault Refusal :=
  .next { s with toEngine :=
    s.toEngine.start s.toEngine.startOperands.1 s.toEngine.startOperands.2.1 s.toEngine.startOperands.2.2 }

/-- PUSH on the machine, with its latched data (42_commands.md R141, R146). -/
def execPush (cnt : BitVec 2) (s : State) : Host.Outcome State Fault Refusal :=
  .next { s with toEngine := s.toEngine.push cnt (s.toEngine.pushData cnt) }

/-- FINISH on the machine (42_commands.md R147). -/
def execFinish (s : State) : Host.Outcome State Fault Refusal := .next { s with toEngine := s.toEngine.finish }

end Sys2Proof.Machine
end

