-- ==== Sys2Proof/Machine/Dispatch.lean ====
section
/-! DEFINITION. `Exec(c)` of 42_commands.md R142 to R148: one arm per command. -/

namespace Sys2Proof.Machine

def exec (i : Instr) (s : State) : Host.Outcome State Fault Refusal :=
  match i with
  | .nop => Sys2Proof.Machine.execNop s
  | .start => Sys2Proof.Machine.execStart s
  | .push cnt => Sys2Proof.Machine.execPush cnt s
  | .finish => Sys2Proof.Machine.execFinish s
  | .abort => Sys2Proof.Machine.execAbort s

end Sys2Proof.Machine
end

