-- ==== Sys2Proof/Machine/Flags.lean ====
section
/-! DEFINITION. The views of the state a host reads (10_state.md R27 to R32, R36). The engine has no condition codes: STATUS
holds its only status bits (10_state.md R43). -/

namespace Sys2Proof.Machine

/-- The number of a phase (10_state.md R29). -/
def Phase.code : Phase → BitVec 2
  | .idle => 0#2
  | .absorb => 1#2
  | .done => 2#2

/-- The number of an error (10_state.md R30). -/
def ErrCode.code : ErrCode → BitVec 4
  | .noError => 0#4
  | .busy => 1#4
  | .illegal => 2#4
  | .seq => 3#4
  | .cfgK => 4#4
  | .cfgSize => 5#4
  | .len => 6#4

namespace Engine

variable {K : Nat}

/-- BUSY is 1 exactly when PENDING is not `none` (10_state.md R31). -/
def busy (e : Engine K) : Bool := e.pending.isSome

/-- STATUS while BUSY = 0: `PHASE << 1 | ERRCODE << 4` (20_memory.md R63, 10_state.md R28). -/
def statusIdle (e : Engine K) : Word := e.phase.code.setWidth 32 <<< 1 ||| e.errcode.code.setWidth 32 <<< 4

/-- STATUS while BUSY = 1: bits [31:1] are a draw of 31 bits, the low 31 of `d` (20_memory.md R63). -/
def statusBusy (d : Word) : Word := (d.setWidth 31).setWidth 32 <<< 1 ||| 1#32

/-- PARAM: bits [8:0] hold K_MAX (10_state.md R32). -/
def param (_ : Engine K) : Word := BitVec.ofNat 32 K

/-- KEYLEN: the length of KEY (10_state.md R36). -/
def keylen (e : Engine K) : Word := BitVec.ofNat 32 e.key.length

end Engine

end Sys2Proof.Machine
end

