-- ==== Sys2Proof/Machine/Port.lean ====
section
/-! DEFINITION. The host register port: the register map (20_memory.md R51), RegRead (R63) and RegWrite (R64), the refusals
(R53, R54), and the bus addresses of the window (R52, R65). -/

namespace Sys2Proof.Machine

/-- What stands at an offset of the window (20_memory.md R51); `K` stands for K_MAX. -/
inductive Reg (K : Nat) where
  | cmd
  | status
  | param
  | cfgK
  | cfgSize
  | seed
  | keydata
  | keylen
  | actK
  | actSize
  | actSeed
  | digest (i : Fin K)
  | bitidx (i : Fin K)
  | reserved
deriving DecidableEq, Repr

/-- The register map (20_memory.md R51). The lane arrays have 256 slots each; those from K_MAX on are reserved. Asked only
about aligned offsets: `transact` refuses the others. -/
def regAt (K : Nat) (off : Offset) : Reg K :=
  if off = 0x000#12 then .cmd
  else if off = 0x004#12 then .status
  else if off = 0x008#12 then .param
  else if off = 0x00C#12 then .cfgK
  else if off = 0x010#12 then .cfgSize
  else if off = 0x014#12 then .seed
  else if off = 0x018#12 then .keydata
  else if off = 0x01C#12 then .keylen
  else if off = 0x020#12 then .actK
  else if off = 0x024#12 then .actSize
  else if off = 0x028#12 then .actSeed
  else if off.toNat < 0x400 then .reserved
  else if off.toNat < 0x800 then
    if h : (off.toNat - 0x400) / 4 < K then .digest ⟨(off.toNat - 0x400) / 4, h⟩ else .reserved
  else if off.toNat < 0xC00 then
    if h : (off.toNat - 0x800) / 4 < K then .bitidx ⟨(off.toNat - 0x800) / 4, h⟩ else .reserved
  else .reserved

/-- The offset of DIGEST[i] (20_memory.md R51). -/
def digestOffset (i : Nat) : Offset := BitVec.ofNat 12 (0x400 + 4 * i)

/-- The offset of BITIDX[i] (20_memory.md R51). -/
def bitidxOffset (i : Nat) : Offset := BitVec.ofNat 12 (0x800 + 4 * i)

namespace Engine

variable {K : Nat}

/-- `v` if the engine is idle, the draw `d` while it is busy (20_memory.md R63). -/
def exactOrDraw (e : Engine K) (d v : Word) : Word := if e.busy then d else v

/-- The value of a register as a host reads it, `d` being this read's draw (20_memory.md R63). -/
def readReg (e : Engine K) (d : Word) : Reg K → Word
  | .cmd => 0#32
  | .status => e.exactOrDraw (statusBusy d) e.statusIdle
  | .param => e.param
  | .cfgK => e.cfgK
  | .cfgSize => e.cfgSize
  | .seed => e.seed
  | .keydata => e.keydata
  | .keylen => e.exactOrDraw d e.keylen
  | .actK => e.exactOrDraw d e.actK
  | .actSize => e.exactOrDraw d e.actSize
  | .actSeed => e.exactOrDraw d e.actSeed
  | .digest i => e.exactOrDraw d e.digest[i]
  | .bitidx i => e.exactOrDraw d e.bitidx[i]
  | .reserved => 0#32

/-- `RegRead(off)` with the draw `d` (20_memory.md R63). -/
def regRead (e : Engine K) (d : Word) (off : Offset) : Word := e.readReg d (regAt K off)

/-- A host's write to a register (20_memory.md R64): read-only and reserved ones ignore it (20_memory.md R55). -/
def writeReg (e : Engine K) (v : Word) : Reg K → Engine K
  | .cmd => e.issue v
  | .cfgK => { e with cfgK := v }
  | .cfgSize => { e with cfgSize := v }
  | .seed => { e with seed := v }
  | .keydata => { e with keydata := v }
  | .status => e
  | .param => e
  | .keylen => e
  | .actK => e
  | .actSize => e
  | .actSeed => e
  | .digest _ => e
  | .bitidx _ => e
  | .reserved => e

/-- `RegWrite(off, v)` (20_memory.md R64). -/
def regWrite (e : Engine K) (off : Offset) (v : Word) : Engine K := e.writeReg v (regAt K off)

end Engine

/-- One transaction at the port. Every read takes a draw of its own, whether its value is used or not (log entry 4). -/
def transact (t : Transaction) (s : State) : Host.Outcome State Fault Refusal :=
  if !t.widthOk then .refused .unsupportedWidth
  else if !t.aligned then .refused .misaligned
  else
    match t with
    | .read _ off =>
      .next { s with
        readData := some (s.toEngine.regRead (Config.freeWord s.draws) off)
        draws := s.draws + 1 }
    | .write _ off v => .next { s with toEngine := s.toEngine.regWrite off v }

/-- The bus address of an offset: `BASE + off` (20_memory.md R52, R65). -/
def busAddress (off : Offset) : Nat := Config.base + off.toNat

/-- The offset of a bus address, `off = busaddr - BASE`; `none` outside the window, where the engine is not addressed
(20_memory.md R52). -/
def busOffset (addr : Nat) : Option Offset :=
  if Config.base ≤ addr ∧ addr ≤ Config.base + 0xFFF then some (BitVec.ofNat 12 (addr - Config.base)) else none

end Sys2Proof.Machine
end

