-- ==== Sys2Proof/Machine/Events.lean ====
section
/-! DEFINITION. The events of an execution (20_memory.md R58): the engine step (42_commands.md R142), the reset event
(70_reset_and_hazards.md R180), a host's transaction; and the placing of a command for the next step. -/

namespace Sys2Proof.Machine

/-- PENDING <- none: the command is done and BUSY becomes 0 (42_commands.md R142). -/
def clearPending (s : State) : State := { s with pending := none }

/-- The end of an engine step: what is left when `Exec(c)` has answered. -/
def retire : Host.Outcome State Fault Refusal → Host.Outcome State Fault Refusal
  | .next s => .next (clearPending s)
  | .fault r => .fault r
  | .refused r => .refused r

/-- The engine's turn. `EngineStep()` is enabled exactly when PENDING is not `none` (42_commands.md R142); otherwise the
turn passes with nothing done, the engine waiting for CMD writes (70_reset_and_hazards.md R182; log entry 2). -/
def engineTurn (s : State) : Host.Outcome State Fault Refusal :=
  match s.pending with
  | none => .next s
  | some c => retire (exec c.instr s)

/-- The reset event: every state element to its reset value, a pending command discarded (70_reset_and_hazards.md R180, R181).
The model's own fields, which are no state elements, stay (log entry 9). -/
def resetEvent (s : State) : State := { s with toEngine := Engine.reset Config.kMax }

/-- One event of the order (20_memory.md R58). -/
def runEvent (ev : Event) (s : State) : Host.Outcome State Fault Refusal :=
  match ev with
  | .host t => transact t s
  | .engine => engineTurn s
  | .reset => .next (resetEvent s)

/-- The engine's turn is put first where other events are waiting; with none waiting the next turn is the engine's anyway. -/
def engineFirst : List Event → List Event
  | [] => []
  | ev :: rest => .engine :: ev :: rest

/-- A host has just written the command word `w` to CMD of a free engine, and the next turn is the engine's
(log entry 8). -/
def placeCommand (w : Word) (s : State) : State :=
  { s with toEngine := (clearPending s).toEngine.issue w, schedule := engineFirst s.schedule }

/-- A latched command alone: it stands in PENDING and the engine takes its turn, with no other event between. -/
def runCommand (c : Command) (s : State) : Host.Outcome State Fault Refusal := engineTurn { s with pending := some c }

/-- Latched commands one after the other, each issued only after the one before has been executed. -/
def runCommands : List Command → State → Host.Outcome State Fault Refusal
  | [], s => .next s
  | c :: cs, s =>
    match runCommand c s with
    | .next t => runCommands cs t
    | .fault r => .fault r
    | .refused r => .refused r

end Sys2Proof.Machine
end

