-- ==== Sys2Proof/Machine/Step.lean ====
section
/-! DEFINITION. One step: the next event of the order, and when none is scheduled the engine's turn. -/

namespace Sys2Proof.Machine

/-- The next event (20_memory.md R58). An empty schedule leaves only the engine to move: the weak fairness of
70_reset_and_hazards.md R189 (log entry 1). -/
def step (s : State) : Host.Outcome State Fault Refusal :=
  match s.schedule with
  | [] => engineTurn s
  | ev :: rest => runEvent ev { s with schedule := rest }

/-- The command word `w` where the next step takes its command from: PENDING, filled by the issue a host's CMD write
performs (42_commands.md R140; log entry 8). A word that does not fit 32 bits is none, and nothing is placed. -/
def State.withFetchWord (s : State) (nbits w : Nat) : State :=
  if w % 2 ^ nbits < 2 ^ 32 then placeCommand (BitVec.ofNat 32 (w % 2 ^ nbits)) s else s

end Sys2Proof.Machine
end

