-- ==== Sys2Proof/Machine/Script.lean ====
section
/-! DEFINITION. The host beside the engine: host scripts and pseudo-instructions (30_encoding.md R79, R80), a script's turns
among the engine's, and the end of a run (70_reset_and_hazards.md R192). A layer on top of the machine: `step` does not use
it (log entry 15). -/

namespace Sys2Proof.Machine

/-- One line of a host script (30_encoding.md R79). -/
inductive Line where
  /-- `W off, v`. -/
  | write (off : Offset) (v : Word)
  /-- `R off -> name`. -/
  | read (off : Offset) (name : String)
  /-- `P off, mask, val`: repeat the read until `(value & mask) = val`. -/
  | poll (off : Offset) (mask val : Word)
  /-- `C mnem`. -/
  | command (i : Instr)
  /-- `; text`. -/
  | comment (text : String)
deriving DecidableEq, Repr

/-- The transaction a line performs (once, or once per round of a poll). -/
def Line.transaction : Line → Option Transaction
  | .write off v => some (.write .bits32 off v)
  | .read off _ => some (.read .bits32 off)
  | .poll off _ _ => some (.read .bits32 off)
  | .command i => some (.write .bits32 0x000#12 (encode i))
  | .comment _ => none

/-- Is the line over, once its transaction has returned `value`? Only a poll may go on. -/
def Line.over (value : Word) : Line → Bool
  | .poll _ mask val => value &&& mask == val
  | .write _ _ => true
  | .read _ _ => true
  | .command _ => true
  | .comment _ => true

/-- The values a script has named, the latest first. -/
def Line.record (value : Word) (values : List (String × Word)) : Line → List (String × Word)
  | .read _ name => (name, value) :: values
  | .write _ _ => values
  | .poll _ _ _ => values
  | .command _ => values
  | .comment _ => values

/-- A host script on its way, beside the machine. -/
structure HostRun where
  machine : State
  /-- The lines that are not over yet. -/
  script : List Line
  values : List (String × Word)
deriving DecidableEq, Repr

/-- Who moves (00_scope.md R13). -/
inductive Turn where
  | host
  | engine
  | reset
deriving DecidableEq, Repr

/-- The host's turn: the transaction of its first line. A script that has ended does nothing. -/
def hostTurn (r : HostRun) : Host.Outcome HostRun Fault Refusal :=
  match r.script with
  | [] => .next r
  | line :: rest =>
    match line.transaction with
    | none => .next { r with script := rest }
    | some t =>
      match transact t r.machine with
      | .next s =>
        let value := s.readData.getD 0#32
        .next ⟨s, if line.over value then rest else line :: rest, line.record value r.values⟩
      | .fault f => .fault f
      | .refused f => .refused f

/-- Another agent's turn leaves the script where it is. -/
def HostRun.onMachine (r : HostRun) : Host.Outcome State Fault Refusal → Host.Outcome HostRun Fault Refusal
  | .next s => .next { r with machine := s }
  | .fault f => .fault f
  | .refused f => .refused f

def takeTurn (who : Turn) (r : HostRun) : Host.Outcome HostRun Fault Refusal :=
  match who with
  | .host => hostTurn r
  | .engine => r.onMachine (engineTurn r.machine)
  | .reset => r.onMachine (.next (resetEvent r.machine))

/-- The turns of a run, in their order. -/
def takeTurns : List Turn → HostRun → Host.Outcome HostRun Fault Refusal
  | [], r => .next r
  | who :: turns, r =>
    match takeTurn who r with
    | .next r' => takeTurns turns r'
    | .fault f => .fault f
    | .refused f => .refused f

/-- A script ends when its last line has completed (70_reset_and_hazards.md R192). -/
def HostRun.ended (r : HostRun) : Bool := r.script.isEmpty

/-- Quiescent: no command is pending (70_reset_and_hazards.md R192). -/
def quiescent (s : State) : Bool := s.pending.isNone

/-! The pseudo-instructions (30_encoding.md R80), with the offsets of 20_memory.md R51. -/

/-- `WAIT`. -/
def waitLines : List Line := [.poll 0x004#12 0x1#32 0x0#32]

/-- `ISSUE m`. -/
def issueLines (i : Instr) : List Line := .command i :: waitLines

/-- `PUSHKEY b`: groups of four bytes, then the remaining one to three with zero above. -/
def pushKeyLines : List Byte → List Line
  | b0 :: b1 :: b2 :: b3 :: rest =>
    .write 0x018#12 (le32 b0 b1 b2 b3) :: issueLines (.push 3#2) ++ pushKeyLines rest
  | [b0, b1, b2] => .write 0x018#12 (le32 b0 b1 b2 0) :: issueLines (.push 2#2)
  | [b0, b1] => .write 0x018#12 (le32 b0 b1 0 0) :: issueLines (.push 1#2)
  | [b0] => .write 0x018#12 (le32 b0 0 0 0) :: issueLines (.push 0#2)
  | [] => []

/-- `HASHKEY b, k, size, seed`. -/
def hashKeyLines (b : List Byte) (k size seed : Word) : List Line :=
  .write 0x00C#12 k :: .write 0x010#12 size :: .write 0x014#12 seed ::
    issueLines .start ++ pushKeyLines b ++ issueLines .finish

/-- `CHECK` reads STATUS into `s`. -/
def checkLines : List Line := [.read 0x004#12 "s"]

/-- `CHECK`'s one-way test: results are valid when `s` is this value (30_encoding.md R80, 90_conflicts.md C7). -/
def checkPasses (s : Word) : Bool := s == 0x00000004#32

end Sys2Proof.Machine
end

