-- ==== Sys2Proof/Safety.lean ====
section
/-! DEFINITION. What holds in every reachable state (10_state.md R46, R36), what valid results are (70_reset_and_hazards.md
R187), and which steps go on. -/

namespace Sys2Proof.Machine

/-- Every DIGEST and BITIDX is 0. -/
def Engine.LanesZero {K : Nat} (e : Engine K) : Prop :=
  ∀ (i : Nat) (h : i < K), e.digest[i] = 0#32 ∧ e.bitidx[i] = 0#32

/-- The invariants of 10_state.md R46 (its item 6 holds by type) and the length bound of R36 and R40. -/
structure Engine.Inv {K : Nat} (e : Engine K) : Prop where
  /-- Item 1: IDLE has no key, no operands and no results. -/
  idle : e.phase = .idle → e.key = [] ∧ e.actK = 0#32 ∧ e.actSize = 0#32 ∧ e.actSeed = 0#32 ∧ e.LanesZero
  /-- Item 2: ABSORB and DONE have legal operands. -/
  operands : e.phase ≠ .idle → 1 ≤ e.actK.toNat ∧ e.actK.toNat ≤ K ∧ 1 ≤ e.actSize.toNat
  /-- Item 3: ABSORB has no results. -/
  absorb : e.phase = .absorb → e.LanesZero
  /-- Item 4: an inactive lane holds 0. -/
  inactive : ∀ (i : Nat) (h : i < K), e.actK.toNat ≤ i → e.digest[i] = 0#32 ∧ e.bitidx[i] = 0#32
  /-- Item 5: in DONE an active lane's bit address is in range. -/
  inRange : e.phase = .done → ∀ (i : Nat) (h : i < K), i < e.actK.toNat →
    e.bitidx[i].toNat < 8 * e.actSize.toNat ∧ e.bitidx[i].toNat ≤ e.digest[i].toNat
  /-- KEYLEN never exceeds 2^32 - 1 (10_state.md R36, R40). -/
  keyLength : e.key.length ≤ 2 ^ 32 - 1

/-- The results in DONE are those of KEY under the latched operands (42_commands.md R147). ACT_SIZE is not 0 there, by item 2
of the invariants. -/
def Engine.ResultsOfKey {K : Nat} (e : Engine K) : Prop :=
  e.phase = .done → ∀ (i : Nat) (h : i < K), i < e.actK.toNat →
    e.digest[i] = hash32 e.key (e.actSeed + BitVec.ofNat 32 i) ∧
    (e.actSize ≠ 0#32 →
      e.bitidx[i].toNat = (hash32 e.key (e.actSeed + BitVec.ofNat 32 i)).toNat % (8 * e.actSize.toNat))

/-- The next event is the engine's turn. -/
def State.engineMoves (s : State) : Prop := s.schedule = [] ∨ s.schedule.head? = some .engine

/-- The next event is a reset. -/
def State.resetMoves (s : State) : Prop := s.schedule.head? = some .reset

/-- The next event is an admitted write of `w` to CMD. -/
def State.hostIssues (s : State) (w : Word) : Prop :=
  s.schedule.head? = some (.host (.write .bits32 0x000#12 w))

/-- No event ahead is a transaction a model refuses (20_memory.md R53, R54). -/
def Event.admitted : Event → Bool
  | .host t => t.admitted
  | .engine => true
  | .reset => true

/-- A safe run is one whose transactions are all admitted: nothing else stops a step. -/
def State.safe (s : State) : Prop := ∀ ev ∈ s.schedule, ev.admitted = true

end Sys2Proof.Machine
end

