-- ==== Sys2Proof/Certificates/Slice0/Obligations.lean ====
section
/-! DEFINITION. The statements for the provers, from the numbered rules of spec/. `s` is always any state of the machine:
Config.kMax stands for any K_MAX in 1..256, and `s.schedule` for any order of the events still to come. -/

section

open Sys2Proof Sys2Proof.Machine

/-! ### Encoding (30_encoding.md) -/

/-- R77: the words of the eight command forms, written out. -/
def Obligations.CommandWordsDecode : Prop :=
  decode 0x00000000#32 = .ok .nop ∧ decode 0x00000001#32 = .ok .start ∧
  decode 0x00000002#32 = .ok (.push 0#2) ∧ decode 0x00000012#32 = .ok (.push 1#2) ∧
  decode 0x00000022#32 = .ok (.push 2#2) ∧ decode 0x00000032#32 = .ok (.push 3#2) ∧
  decode 0x00000003#32 = .ok .finish ∧ decode 0x00000004#32 = .ok .abort

/-- R70 to R77: a word decodes to a command exactly when it is that command's word. -/
def Obligations.DecodeInvertsEncode : Prop :=
  ∀ (w : Word) (i : Instr), decode w = .ok i ↔ w = encode i

/-- R73, whole: legality, the decoder's answer on every word, and the eight legal words. -/
def Obligations.DecoderFollowsLegality : Prop :=
  ∀ w : Word,
    (legal w = true ↔
      (w.toNat % 16 = 2 ∧ w.toNat / 64 = 0) ∨
      ((w.toNat % 16 = 0 ∨ w.toNat % 16 = 1 ∨ w.toNat % 16 = 3 ∨ w.toNat % 16 = 4) ∧ w.toNat / 16 = 0)) ∧
    (legal w = false → ∃ r, decode w = .error r) ∧
    (legal w = true → w.toNat % 16 = 0 → decode w = .ok .nop) ∧
    (legal w = true → w.toNat % 16 = 1 → decode w = .ok .start) ∧
    (legal w = true → w.toNat % 16 = 2 → decode w = .ok (.push (BitVec.ofNat 2 (w.toNat / 16)))) ∧
    (legal w = true → w.toNat % 16 = 3 → decode w = .ok .finish) ∧
    (legal w = true → w.toNat % 16 = 4 → decode w = .ok .abort) ∧
    (legal w = true ↔ w ∈ [0x00000000#32, 0x00000001#32, 0x00000002#32, 0x00000012#32, 0x00000022#32, 0x00000032#32,
      0x00000003#32, 0x00000004#32])

/-- R74: which words are illegal, and what an issue of one does to a free engine. -/
def Obligations.IllegalWordsAreDropped : Prop :=
  (∀ w : Word, (∃ r, decode w = .error r) ↔
    5 ≤ w.toNat % 16 ∨ (w.toNat % 16 ≠ 2 ∧ w.toNat / 16 % 4 ≠ 0) ∨ w.toNat / 64 ≠ 0) ∧
  (∀ (s : State) (w : Word) (r : Illegal) (rest : List Event), decode w = .error r →
    s.schedule = .host (.write .bits32 0x000#12 w) :: rest → s.pending = none →
    step s = .next { s with
      schedule := rest, errcode := if s.errcode = .noError then .illegal else s.errcode })

/-! ### The hash (40_murmur3_hash.md) -/

/-- R102: the chunk mix, its formula, corner cases and example. -/
def Obligations.ChunkMixValues : Prop :=
  (∀ k : Word, mixK k =
    ((k * 0xcc9e2d51#32) <<< 15 ||| (k * 0xcc9e2d51#32) >>> 17) * 0x1b873593#32) ∧
  mixK 0#32 = 0#32 ∧ mixK 0xffffffff#32 = 0xbbeeb010#32 ∧ mixK 0x80000000#32 = 0xcd64c000#32 ∧
  mixK 0x64636261#32 = 0x5b9433b7#32

/-- R103: the body mix, its formula, corner cases and example. -/
def Obligations.BodyMixValues : Prop :=
  (∀ h : Word, mixH h = (h <<< 13 ||| h >>> 19) * 5#32 + 0xe6546b64#32) ∧
  mixH 0#32 = 0xe6546b64#32 ∧ mixH 0xffffffff#32 = 0xe6546b5f#32 ∧ mixH 0x80000000#32 = 0xe654bb64#32 ∧
  mixH 0x5b9433b7#32 = 0x86a7049e#32

/-- R110: the finalizer's steps, corner cases and example. -/
def Obligations.FinalizerValues : Prop :=
  (∀ h0 h1 h2 h3 h4 : Word, h1 = h0 ^^^ h0 >>> 16 → h2 = h1 * 0x85ebca6b#32 → h3 = h2 ^^^ h2 >>> 13 →
    h4 = h3 * 0xc2b2ae35#32 → fmix h0 = h4 ^^^ h4 >>> 16) ∧
  fmix 0#32 = 0#32 ∧ fmix 1#32 = 0x514e28b7#32 ∧ fmix 0xffffffff#32 = 0x81f16f39#32 ∧
  fmix 0x0b9a97d2#32 = 0xe89b9af6#32

/-- R104 to R106: the body starts at the seed and takes the key's whole chunks in order, each little-endian. -/
def Obligations.BodyTakesChunksInOrder : Prop :=
  (∀ (key : List Byte) (seed : Word), key.length < 4 → bodyHash key seed = seed) ∧
  (∀ (key : List Byte) (a b c d : Byte) (tail : List Byte) (seed : Word), key.length % 4 = 0 → tail.length < 4 →
    bodyHash (key ++ [a, b, c, d] ++ tail) seed =
      mixH (bodyHash key seed ^^^ mixK (a.setWidth 32 ||| b.setWidth 32 <<< 8 ||| c.setWidth 32 <<< 16 |||
        d.setWidth 32 <<< 24)))

/-- R107: the tail value is the remaining bytes in their byte lanes, with zero above. -/
def Obligations.TailIsLittleEndian : Prop :=
  ∀ (key : List Byte), key.length % 4 = 0 →
    tailValue key = 0#32 ∧
    (∀ a : Byte, tailValue (key ++ [a]) = le32 a 0 0 0) ∧
    (∀ a b : Byte, tailValue (key ++ [a, b]) = le32 a b 0 0) ∧
    (∀ a b c : Byte, tailValue (key ++ [a, b, c]) = le32 a b c 0)

/-- R111: the whole hash, with a whole-chunk key and a tail of each length; its corner cases and example. -/
def Obligations.HashOfChunksAndTail : Prop :=
  (∀ (key : List Byte) (seed : Word), key.length % 4 = 0 →
    hash32 key seed = fmix (bodyHash key seed ^^^ BitVec.ofNat 32 key.length) ∧
    (∀ a : Byte, hash32 (key ++ [a]) seed =
      fmix (bodyHash key seed ^^^ mixK (le32 a 0 0 0) ^^^ BitVec.ofNat 32 (key.length + 1))) ∧
    (∀ a b : Byte, hash32 (key ++ [a, b]) seed =
      fmix (bodyHash key seed ^^^ mixK (le32 a b 0 0) ^^^ BitVec.ofNat 32 (key.length + 2))) ∧
    (∀ a b c : Byte, hash32 (key ++ [a, b, c]) seed =
      fmix (bodyHash key seed ^^^ mixK (le32 a b c 0) ^^^ BitVec.ofNat 32 (key.length + 3)))) ∧
  (∀ seed : Word, hash32 [] seed = fmix seed) ∧ hash32 [] 0#32 = 0#32 ∧ hash32 [0#8] 0#32 = 0x514e28b7#32 ∧
  hash32 [0x61#8, 0x62#8, 0x63#8, 0x64#8, 0x65#8] 0#32 = 0xe89b9af6#32

/-- R113: the streaming implementation computes the same digest, whatever the appended bytes. -/
def Obligations.StreamingEqualsHash : Prop :=
  ∀ (key : List Byte) (laneSeed : Word),
    streamFinish (key.foldl streamAppend (streamStart laneSeed)) = hash32 key laneSeed

/-! ### The address decoder (41_address_decoder.md) -/

/-- R122: the reduction, its range and its corner cases. -/
def Obligations.ReductionModuloBits : Prop :=
  (∀ d size : Word, size ≠ 0#32 →
    (bitIndex d size).toNat = d.toNat % (8 * size.toNat) ∧
    (bitIndex d size).toNat < 8 * size.toNat ∧ (bitIndex d size).toNat ≤ d.toNat ∧
    (size = 1#32 → bitIndex d size = d &&& 7#32) ∧
    (d = 0#32 → bitIndex d size = 0#32) ∧
    (d.toNat < 8 * size.toNat → bitIndex d size = d) ∧
    (2 ^ 29 ≤ size.toNat → bitIndex d size = d)) ∧
  bitIndex 0x248bfa47#32 16#32 = 0x47#32

/-- R123, R124: the fields of a bit index are its byte index and bit position, and both are in range. -/
def Obligations.IndexAndPositionInRange : Prop :=
  (∀ b : Word, (bucketIndex b).toNat = b.toNat / 8 ∧ (bucketPosition b).toNat = b.toNat % 8 ∧
    b.toNat = (bucketIndex b).toNat * 8 + (bucketPosition b).toNat) ∧
  (bucketIndex 71#32).toNat = 8 ∧ (bucketPosition 71#32).toNat = 7 ∧
  (∀ d size : Word, size ≠ 0#32 →
    (bucketPosition (bitIndex d size)).toNat ≤ 7 ∧
    (bucketIndex (bitIndex d size)).toNat < size.toNat ∧
    (bucketIndex (bitIndex d size)).toNat ≤ 0x1fffffff)

/-- R120, R127: lane seeds wrap, and lane `i` of pass `p` is round `p * K_MAX + i`. -/
def Obligations.PassesCountRounds : Prop :=
  laneSeed 0xfffffffe#32 0 = 0xfffffffe#32 ∧ laneSeed 0xfffffffe#32 1 = 0xffffffff#32 ∧
  laneSeed 0xfffffffe#32 2 = 0x00000000#32 ∧
  (∀ (p i : Nat) (e : Engine Config.kMax) (h : i < Config.kMax),
    e.actSeed = BitVec.ofNat 32 (p * Config.kMax) → i < e.actK.toNat →
    e.closeKey.digest[i] = hash32 e.key (BitVec.ofNat 32 (p * Config.kMax + i)) ∧
    (e.actSize ≠ 0#32 → e.closeKey.bitidx[i].toNat =
      (hash32 e.key (BitVec.ofNat 32 (p * Config.kMax + i))).toNat % (8 * e.actSize.toNat)))

/-! ### Commands (42_commands.md): every outcome of each, by its rule -/

/-- Every command completes in every state: no command stops the machine. -/
def Obligations.EveryCommandCompletes : Prop :=
  ∀ (i : Instr) (s : State), ∃ t, exec i s = .next t

/-- R144, R142: NOP changes nothing, poisoned or not; its engine step clears PENDING and uses up the engine's turn. That the
engine moves when no event is left, one of the two cases of `engineMoves`, is the model's choice (log entry 1). -/
def Obligations.NopOnlyClearsBusy : Prop :=
  ∀ s : State, exec .nop s = .next s ∧
    (s.pending = some .nop → s.engineMoves →
      step s = .next { s with pending := none, schedule := s.schedule.tail })

/-- R145: START, in each of its cases, with the operands latched in PENDING. -/
def Obligations.StartBeginsKeyOrRecordsError : Prop :=
  ∀ (s : State) (k size seed : Word), s.pending = some (.start k size seed) →
    (s.errcode ≠ .noError → exec .start s = .next s) ∧
    (s.errcode = .noError → k = 0#32 ∨ Config.kMax < k.toNat →
      exec .start s = .next { s with errcode := .cfgK }) ∧
    (s.errcode = .noError → k ≠ 0#32 → k.toNat ≤ Config.kMax → size = 0#32 →
      exec .start s = .next { s with errcode := .cfgSize }) ∧
    (s.errcode = .noError → k ≠ 0#32 → k.toNat ≤ Config.kMax → size ≠ 0#32 →
      exec .start s = .next { s with
        actK := k, actSize := size, actSeed := seed, key := [], phase := .absorb,
        digest := Vector.replicate Config.kMax 0#32, bitidx := Vector.replicate Config.kMax 0#32 })

/-- R146: PUSH, in each of its cases, with the data latched in PENDING. -/
def Obligations.PushAppendsOrRecordsError : Prop :=
  ∀ (s : State) (cnt : BitVec 2) (data : Word), s.pending = some (.push cnt data) →
    (s.errcode ≠ .noError → exec (.push cnt) s = .next s) ∧
    (s.errcode = .noError → s.phase ≠ .absorb → exec (.push cnt) s = .next { s with errcode := .seq }) ∧
    (s.errcode = .noError → s.phase = .absorb → 2 ^ 32 - 1 < s.key.length + (cnt.toNat + 1) →
      exec (.push cnt) s = .next { s with errcode := .len }) ∧
    (s.errcode = .noError → s.phase = .absorb → s.key.length + (cnt.toNat + 1) ≤ 2 ^ 32 - 1 →
      let lanes := [data.extractLsb' 0 8, data.extractLsb' 8 8, data.extractLsb' 16 8, data.extractLsb' 24 8]
      exec (.push cnt) s = .next { s with key := s.key ++ lanes.take (cnt.toNat + 1) })

/-- R147: FINISH, in each of its cases: the active lanes are written, the others kept, PHASE becomes DONE, and nothing
else changes. ACT_SIZE is never 0 in ABSORB (R46 item 2, stated as an invariant); a reduction by 0 has no value (R9). -/
def Obligations.FinishHashesActiveLanes : Prop :=
  ∀ s : State,
    (s.errcode ≠ .noError → exec .finish s = .next s) ∧
    (s.errcode = .noError → s.phase ≠ .absorb → exec .finish s = .next { s with errcode := .seq }) ∧
    (s.errcode = .noError → s.phase = .absorb →
      ∃ t, exec .finish s = .next t ∧
        t = { s with digest := t.digest, bitidx := t.bitidx, phase := .done } ∧
        ∀ (i : Nat) (h : i < Config.kMax),
          (i < s.actK.toNat →
            t.digest[i] = hash32 s.key (s.actSeed + BitVec.ofNat 32 i) ∧
            (s.actSize ≠ 0#32 → t.bitidx[i].toNat = t.digest[i].toNat % (8 * s.actSize.toNat))) ∧
          (s.actK.toNat ≤ i → t.digest[i] = s.digest[i] ∧ t.bitidx[i] = s.bitidx[i]))

/-- R148: ABORT, from any state, poisoned or not: every engine-owned element at its reset value, and nothing else changed. -/
def Obligations.AbortRecovers : Prop :=
  ∀ s : State, exec .abort s = .next { s with
    key := [], actK := 0#32, actSize := 0#32, actSeed := 0#32, phase := .idle, errcode := .noError,
    digest := Vector.replicate Config.kMax 0#32, bitidx := Vector.replicate Config.kMax 0#32 }

/-- R143: a poisoned engine skips every command but NOP and ABORT, and only ABORT or reset clears the poison. -/
def Obligations.PoisonSkipsCommands : Prop :=
  (∀ (i : Instr) (s : State), s.errcode ≠ .noError → i ≠ .nop → i ≠ .abort → exec i s = .next s) ∧
  (∀ s t : State, step s = .next t → s.errcode ≠ .noError → t.errcode = .noError →
    (s.engineMoves ∧ s.pending = some .abort) ∨ s.resetMoves)

/-- R152, R21: what each command leaves unchanged. No command writes a host-owned register, PENDING or the model's own
fields; the other elements are written only by the commands named. -/
def Obligations.CommandsLeaveTheRest : Prop :=
  ∀ (i : Instr) (s t : State), exec i s = .next t →
    (t.cfgK = s.cfgK ∧ t.cfgSize = s.cfgSize ∧ t.seed = s.seed ∧ t.keydata = s.keydata ∧ t.pending = s.pending ∧
      t.schedule = s.schedule ∧ t.readData = s.readData ∧ t.draws = s.draws) ∧
    (i ≠ .start → i ≠ .abort → t.actK = s.actK ∧ t.actSize = s.actSize ∧ t.actSeed = s.actSeed) ∧
    (i ≠ .start → i ≠ .abort → (∀ cnt, i ≠ .push cnt) → t.key = s.key) ∧
    (i ≠ .start → i ≠ .abort → i ≠ .finish → t.digest = s.digest ∧ t.bitidx = s.bitidx ∧ t.phase = s.phase) ∧
    (i = .nop → t.errcode = s.errcode)

/-! ### Issue and the engine step (42_commands.md R140 to R142) -/

/-- R162: a CMD write while a command is pending, whatever the word. -/
def Obligations.BusyWriteIsDropped : Prop :=
  ∀ (s : State) (w : Word) (c : Command) (rest : List Event),
    s.schedule = .host (.write .bits32 0x000#12 w) :: rest → s.pending = some c →
    step s = .next { s with schedule := rest, errcode := if s.errcode = .noError then .busy else s.errcode }

/-- R141: an accepted CMD write latches the operands of that moment, poisoned or not, and later register writes do not
change the pending command. -/
def Obligations.IssueLatchesOperands : Prop :=
  (∀ (s : State) (w : Word) (i : Instr) (rest : List Event), decode w = .ok i →
    s.schedule = .host (.write .bits32 0x000#12 w) :: rest → s.pending = none →
    step s = .next { s with
      schedule := rest
      pending := some (match i with
        | .nop => .nop
        | .start => .start s.cfgK s.cfgSize s.seed
        | .push cnt => .push cnt s.keydata
        | .finish => .finish
        | .abort => .abort) }) ∧
  (∀ (s t : State) (off : Offset) (v : Word) (rest : List Event), off ≠ 0x000#12 →
    s.schedule = .host (.write .bits32 off v) :: rest → step s = .next t → t.pending = s.pending)

/-- R142: when a command is pending and the engine moves, the step is the meaning of that command, and PENDING is cleared;
with nothing pending the engine's turn does nothing. -/
def Obligations.EngineStepRunsPending : Prop :=
  ∀ (s : State) (rest : List Event),
    (∀ (c : Command) (t : State), s.pending = some c → s.schedule = [] → exec c.instr s = .next t →
      step s = .next { t with pending := none }) ∧
    (∀ (c : Command) (t : State), s.pending = some c → s.schedule = .engine :: rest →
      exec c.instr { s with schedule := rest } = .next t → step s = .next { t with pending := none }) ∧
    (s.pending = none → s.schedule = [] → step s = .next s) ∧
    (s.pending = none → s.schedule = .engine :: rest → step s = .next { s with schedule := rest })

/-- R140, R142: a word a host writes to CMD of a free engine is the command the engine's next turn runs: the issue and the
engine step after it. The step that runs a decoded instruction. -/
def Obligations.IssuedWordRunsOnNextTurn : Prop :=
  ∀ (s : State) (w : Word) (i : Instr) (rest : List Event), decode w = .ok i → s.pending = none →
    s.schedule = .host (.write .bits32 0x000#12 w) :: .engine :: rest →
    ∃ s1 t : State, step s = .next s1 ∧
      s1 = { s with schedule := .engine :: rest, pending := s1.pending } ∧
      (∃ c, s1.pending = some c ∧ c.instr = i) ∧
      exec i { s1 with schedule := rest } = .next t ∧ step s1 = .next { t with pending := none }

/-- The same for a word placed by `withFetchWord`, when no other event waits. -/
def Obligations.PlacedWordRunsAtOnce : Prop :=
  ∀ (s : State) (w : Nat) (i : Instr), w < 2 ^ 32 → decode (BitVec.ofNat 32 w) = .ok i → s.schedule = [] →
    ∃ t, exec i (s.withFetchWord 32 w) = .next t ∧ step (s.withFetchWord 32 w) = .next { t with pending := none }

/-- R141, R188: a register write staged while a command is pending commutes with the command's engine step. -/
def Obligations.StagingCommutesWithEngineStep : Prop :=
  ∀ (s : State) (c : Command) (off : Offset) (v : Word), s.pending = some c →
    off = 0x00C#12 ∨ off = 0x010#12 ∨ off = 0x014#12 ∨ off = 0x018#12 →
    ∃ t, core.run 2 { s with schedule := [.host (.write .bits32 off v), .engine] } = .next t ∧
      core.run 2 { s with schedule := [.engine, .host (.write .bits32 off v)] } = .next t

/-- R185: a second CMD write without WAIT. Both outcomes are admitted; an ERR_BUSY recorded while an ABORT is pending is
erased. -/
def Obligations.UnwaitedWriteHasTwoOutcomes : Prop :=
  ∀ (s : State) (w1 w2 : Word) (i1 i2 : Instr), decode w1 = .ok i1 → decode w2 = .ok i2 → s.pending = none →
    s.errcode = .noError →
    (∃ t, core.run 2 { s with schedule :=
        [.host (.write .bits32 0x000#12 w1), .host (.write .bits32 0x000#12 w2)] } = .next t ∧
      t.toEngine = { s.toEngine with pending := some (s.toEngine.latch i1), errcode := .busy }) ∧
    (∃ t, core.run 3 { s with schedule :=
        [.host (.write .bits32 0x000#12 w1), .engine, .host (.write .bits32 0x000#12 w2)] } = .next t ∧
      t.pending = some (s.toEngine.latch i2)) ∧
    (i1 = .abort → ∃ t, core.run 3 { s with schedule :=
        [.host (.write .bits32 0x000#12 w1), .host (.write .bits32 0x000#12 w2), .engine] } = .next t ∧
      t.pending = none ∧ t.errcode = .noError)

/-- R189 under the model's choice of log entry 1 (a finite schedule, then the engine's turn): from any state whose
transactions are all admitted, the run goes on to the end of the schedule, and then no command is pending: its engine step
has been taken, or a reset has discarded it (R181). -/
def Obligations.AdmittedRunEndsWithNothingPending : Prop :=
  ∀ s : State, s.safe →
    ∃ t, core.run (s.schedule.length + 1) s = .next t ∧ t.schedule = [] ∧ t.pending = none

/-! ### The register port (20_memory.md) -/

/-- R53, R54: a step stops exactly on a transaction that is not 32 bits wide or not aligned, each by name, and never on
anything else. Where both hold, the width is the one named: the model's choice (log entry 19). -/
def Obligations.OnlyBadTransactionsAreRefused : Prop :=
  ∀ s : State,
    (∀ (t : Transaction) (rest : List Event), s.schedule = .host t :: rest →
      (t.width ≠ .bits32 → step s = .refused .unsupportedWidth) ∧
      (t.width = .bits32 → t.off.toNat % 4 ≠ 0 → step s = .refused .misaligned)) ∧
    ((∀ (t : Transaction) (rest : List Event), s.schedule = .host t :: rest →
        t.width = .bits32 ∧ t.off.toNat % 4 = 0) → ∃ u, step s = .next u)

/-- R64, R55: an admitted write, register by register, whatever BUSY and ERRCODE are. -/
def Obligations.WriteStoresOrIsIgnored : Prop :=
  ∀ (s : State) (off : Offset) (v : Word) (rest : List Event), off.toNat % 4 = 0 →
    s.schedule = .host (.write .bits32 off v) :: rest →
    (off = 0x000#12 → ∃ t, step s = .next t ∧ t = { s with
      schedule := rest, pending := t.pending, errcode := t.errcode } ∧ t.toEngine = s.toEngine.issue v) ∧
    (off = 0x00C#12 → step s = .next { s with schedule := rest, cfgK := v }) ∧
    (off = 0x010#12 → step s = .next { s with schedule := rest, cfgSize := v }) ∧
    (off = 0x014#12 → step s = .next { s with schedule := rest, seed := v }) ∧
    (off = 0x018#12 → step s = .next { s with schedule := rest, keydata := v }) ∧
    (off ≠ 0x000#12 → off ≠ 0x00C#12 → off ≠ 0x010#12 → off ≠ 0x014#12 → off ≠ 0x018#12 →
      step s = .next { s with schedule := rest })

/-- R63: an admitted read, register by register. It changes no state of the engine. `d` is this read's draw, any value:
the statement holds for every value of the free constant. That a draw is taken by its index and that every read moves the
index on (log entry 4), and that the value read is kept in `readData` (log entry 7), are the model's choices. -/
def Obligations.ReadReturnsRegisterOrDraw : Prop :=
  ∀ (s : State) (rest : List Event) (d : Word), d = Config.freeWord s.draws →
    let reads := fun (off : Offset) (v : Word) =>
      s.schedule = .host (.read .bits32 off) :: rest →
        step s = .next { s with schedule := rest, readData := some v, draws := s.draws + 1 }
    let exact := fun (v : Word) => if s.pending = none then v else d
    reads 0x000#12 0#32 ∧
    reads 0x004#12 (if s.pending = none
      then s.phase.code.setWidth 32 <<< 1 ||| s.errcode.code.setWidth 32 <<< 4
      else (d.setWidth 31).setWidth 32 <<< 1 ||| 1#32) ∧
    reads 0x008#12 (BitVec.ofNat 32 Config.kMax) ∧
    reads 0x00C#12 s.cfgK ∧ reads 0x010#12 s.cfgSize ∧ reads 0x014#12 s.seed ∧ reads 0x018#12 s.keydata ∧
    reads 0x01C#12 (exact (BitVec.ofNat 32 s.key.length)) ∧
    reads 0x020#12 (exact s.actK) ∧ reads 0x024#12 (exact s.actSize) ∧ reads 0x028#12 (exact s.actSeed) ∧
    (∀ (i : Nat) (h : i < Config.kMax), reads (BitVec.ofNat 12 (0x400 + 4 * i)) (exact s.digest[i])) ∧
    (∀ (i : Nat) (h : i < Config.kMax), reads (BitVec.ofNat 12 (0x800 + 4 * i)) (exact s.bitidx[i])) ∧
    (∀ off : Offset, off.toNat % 4 = 0 →
      (0x02C ≤ off.toNat ∧ off.toNat ≤ 0x3FC) ∨
      (0x400 + 4 * Config.kMax ≤ off.toNat ∧ off.toNat < 0x800) ∨
      (0x800 + 4 * Config.kMax ≤ off.toNat ∧ off.toNat < 0xC00) ∨ 0xC00 ≤ off.toNat →
      reads off 0#32)

/-- R28 to R30, R32: the fields of STATUS and the codes in them, read idle and read busy; PARAM. -/
def Obligations.StatusFields : Prop :=
  (∀ e : Engine Config.kMax,
    (e.regRead 0#32 0x004#12 = e.statusIdle ↔ e.pending = none) ∧
    e.statusIdle.extractLsb' 0 1 = 0#1 ∧ e.statusIdle.extractLsb' 1 2 = e.phase.code ∧
    e.statusIdle.extractLsb' 3 1 = 0#1 ∧ e.statusIdle.extractLsb' 4 4 = e.errcode.code ∧
    e.statusIdle.extractLsb' 8 24 = 0#24) ∧
  (∀ (e : Engine Config.kMax) (d : Word), e.pending ≠ none → (e.regRead d 0x004#12).extractLsb' 0 1 = 1#1) ∧
  (∀ (e : Engine Config.kMax) (x : BitVec 31), e.pending ≠ none → ∃ d, e.regRead d 0x004#12 = x ++ 1#1) ∧
  (Phase.idle.code = 0#2 ∧ Phase.absorb.code = 1#2 ∧ Phase.done.code = 2#2) ∧
  (ErrCode.noError.code = 0#4 ∧ ErrCode.busy.code = 1#4 ∧ ErrCode.illegal.code = 2#4 ∧ ErrCode.seq.code = 3#4 ∧
    ErrCode.cfgK.code = 4#4 ∧ ErrCode.cfgSize.code = 5#4 ∧ ErrCode.len.code = 6#4) ∧
  (∀ e : Engine Config.kMax, e.param.extractLsb' 0 9 = BitVec.ofNat 9 Config.kMax ∧ e.param.toNat = Config.kMax ∧
    e.param.extractLsb' 9 23 = 0#23)

/-- R52, R4, R5: the window's bus addresses, and the ranges of the two parameters. -/
def Obligations.WindowAddresses : Prop :=
  Config.base % 4096 = 0 ∧ 1 ≤ Config.kMax ∧ Config.kMax ≤ 256 ∧
  (∀ (addr : Nat) (off : Offset), busOffset addr = some off ↔ addr = Config.base + off.toNat) ∧
  (∀ addr : Nat, busOffset addr = none ↔ addr < Config.base ∨ Config.base + 0xFFF < addr)

/-! ### Errors (60_exceptions.md) -/

/-- R161: recording an error, and which steps clear ERRCODE. -/
def Obligations.FirstErrorSticks : Prop :=
  (∀ (e : Engine Config.kMax) (c : ErrCode),
    (e.errcode = .noError → e.recordErr c = { e with errcode := c }) ∧
    (e.errcode ≠ .noError → e.recordErr c = e)) ∧
  (∀ s t : State, step s = .next t → s.errcode ≠ .noError →
    t.errcode = s.errcode ∨
    (t.errcode = .noError ∧ ((s.engineMoves ∧ s.pending = some .abort) ∨ s.resetMoves)))

/-- R30, R162 to R168: each error is recorded by exactly its cause, from a state without an error. -/
def Obligations.ErrorsHaveTheirCauses : Prop :=
  ∀ s t : State, step s = .next t → s.errcode = .noError →
    (t.errcode = .busy ↔ ∃ w, s.hostIssues w ∧ s.pending ≠ none) ∧
    (t.errcode = .illegal ↔ ∃ w, s.hostIssues w ∧ s.pending = none ∧ legal w = false) ∧
    (t.errcode = .seq ↔ s.engineMoves ∧ s.phase ≠ .absorb ∧
      (s.pending = some .finish ∨ ∃ cnt data, s.pending = some (.push cnt data))) ∧
    (t.errcode = .cfgK ↔ s.engineMoves ∧ ∃ k size seed, s.pending = some (.start k size seed) ∧
      (k = 0#32 ∨ Config.kMax < k.toNat)) ∧
    (t.errcode = .cfgSize ↔ s.engineMoves ∧ ∃ k size seed, s.pending = some (.start k size seed) ∧
      k ≠ 0#32 ∧ k.toNat ≤ Config.kMax ∧ size = 0#32) ∧
    (t.errcode = .len ↔ s.engineMoves ∧ s.phase = .absorb ∧ ∃ cnt data, s.pending = some (.push cnt data) ∧
      2 ^ 32 - 1 < s.key.length + (cnt.toNat + 1))

/-- R169: an event that records an error changes ERRCODE and nothing else of the engine, but for PENDING, which every engine
step clears; a command skipped by poisoning changes nothing else. -/
def Obligations.ErrorsArePrecise : Prop :=
  ∀ s t : State, step s = .next t →
    (t.errcode ≠ s.errcode → t.errcode ≠ .noError →
      s.errcode = .noError ∧
      (s.engineMoves → t.toEngine = { s.toEngine with errcode := t.errcode, pending := none }) ∧
      (¬ s.engineMoves → t.toEngine = { s.toEngine with errcode := t.errcode })) ∧
    (s.engineMoves → s.errcode ≠ .noError → s.pending ≠ some .nop → s.pending ≠ some .abort →
      t.toEngine = { s.toEngine with pending := none })

/-- R29: PHASE changes only in the steps of START, FINISH and ABORT and on reset, and to the value each writes. -/
def Obligations.PhaseWrittenByFewEvents : Prop :=
  ∀ s t : State, step s = .next t → t.phase ≠ s.phase →
    (s.engineMoves ∧ (∃ k size seed, s.pending = some (.start k size seed)) ∧ t.phase = .absorb) ∨
    (s.engineMoves ∧ s.pending = some .finish ∧ t.phase = .done) ∨
    (s.engineMoves ∧ s.pending = some .abort ∧ t.phase = .idle) ∨
    (s.resetMoves ∧ t.phase = .idle)

/-- R21: a host's transaction leaves PHASE, KEY, ACT_*, DIGEST and BITIDX, and it changes PENDING or ERRCODE only by a write
to CMD (R140); an engine step leaves the four host-owned registers. -/
def Obligations.HostAndEngineOwnTheirRegisters : Prop :=
  ∀ s t : State, step s = .next t →
    (∀ (tr : Transaction) (rest : List Event), s.schedule = .host tr :: rest →
      t.phase = s.phase ∧ t.key = s.key ∧ t.actK = s.actK ∧ t.actSize = s.actSize ∧ t.actSeed = s.actSeed ∧
      t.digest = s.digest ∧ t.bitidx = s.bitidx ∧
      (t.pending ≠ s.pending ∨ t.errcode ≠ s.errcode → ∃ w, s.hostIssues w)) ∧
    (s.engineMoves →
      t.cfgK = s.cfgK ∧ t.cfgSize = s.cfgSize ∧ t.seed = s.seed ∧ t.keydata = s.keydata)

/-! ### Reset and invariants (70_reset_and_hazards.md, 10_state.md) -/

/-- R44: every element, and every view, right after reset. -/
def Obligations.ResetValues : Prop :=
  let s := State.reset
  s.cfgK = 0x00000001#32 ∧ s.cfgSize = 0x00000001#32 ∧ s.seed = 0x00000000#32 ∧ s.keydata = 0x00000000#32 ∧
  s.phase = .idle ∧ s.errcode = .noError ∧ s.pending = none ∧ s.key = [] ∧
  s.actK = 0#32 ∧ s.actSize = 0#32 ∧ s.actSeed = 0#32 ∧
  (∀ (i : Nat) (h : i < Config.kMax), s.digest[i] = 0#32 ∧ s.bitidx[i] = 0#32) ∧
  (∀ d : Word, s.toEngine.regRead d 0x000#12 = 0#32 ∧ s.toEngine.regRead d 0x004#12 = 0x00000000#32 ∧
    s.toEngine.regRead d 0x008#12 = BitVec.ofNat 32 Config.kMax ∧ s.toEngine.regRead d 0x01C#12 = 0#32)

/-- R180, R181: a reset event puts every state element at its reset value, from any state, a pending command included. That
the model's own fields stay is the model's choice (log entry 9). -/
def Obligations.ResetEventRestoresEverything : Prop :=
  ∀ (s : State) (rest : List Event), s.schedule = .reset :: rest →
    step s = .next { State.reset with schedule := rest, readData := s.readData, draws := s.draws }

/-- R46 at reset. -/
def Obligations.InvariantsHoldAtReset : Prop := State.reset.toEngine.Inv ∧ State.reset.toEngine.ResultsOfKey

/-- R46: every step keeps the invariants, from every state that meets them. -/
def Obligations.StepKeepsInvariants : Prop :=
  ∀ s t : State, s.toEngine.Inv → step s = .next t → t.toEngine.Inv

/-- R147 over whole runs: in DONE the results are those of KEY under the latched operands, and every step keeps that. -/
def Obligations.StepKeepsResultsOfKey : Prop :=
  ∀ s t : State, s.toEngine.ResultsOfKey → step s = .next t → t.toEngine.ResultsOfKey

/-- R187, for results of the engine's own KEY: a STATUS read that returns 4 while BUSY = 0 means DONE without an error, and
every active lane then holds the digest and the bit address of KEY. -/
def Obligations.StatusFourMeansValidResults : Prop :=
  ∀ (s t : State) (rest : List Event), s.toEngine.Inv → s.toEngine.ResultsOfKey → s.pending = none →
    s.schedule = .host (.read .bits32 0x004#12) :: rest → step s = .next t → t.readData = some 0x00000004#32 →
    s.phase = .done ∧ s.errcode = .noError ∧
    ∀ (i : Nat) (h : i < Config.kMax), i < s.actK.toNat →
      s.digest[i] = hash32 s.key (s.actSeed + BitVec.ofNat 32 i) ∧
      s.bitidx[i].toNat = s.digest[i].toNat % (8 * s.actSize.toNat) ∧
      (bucketIndex s.bitidx[i]).toNat < s.actSize.toNat

/-! ### Whole keys (41_address_decoder.md R128, 70_reset_and_hazards.md R184, 30_encoding.md R80) -/

/-- R128, R100, R125: START, the key's bytes split over PUSHes in any way, FINISH: the lanes hold the digests, in round
order, and with SEED = 0 their bit addresses are BLOOM's `buckets`. -/
def Obligations.CommandsComputeBuckets : Prop :=
  ∀ (s : State) (k size seed : Word) (pushes : List (BitVec 2 × Word)) (x : List Byte),
    s.errcode = .noError → k ≠ 0#32 → k.toNat ≤ Config.kMax → size ≠ 0#32 →
    x = pushes.flatMap (fun p => (List.range (p.1.toNat + 1)).map fun j => p.2.extractLsb' (8 * j) 8) →
    x.length ≤ 2 ^ 32 - 1 →
    ∃ t, runCommands (.start k size seed :: pushes.map (fun p => .push p.1 p.2) ++ [.finish]) s = .next t ∧
      t.phase = .done ∧ t.errcode = .noError ∧ t.pending = none ∧ t.key = x ∧ t.actK = k ∧
      (∀ (i : Nat) (h : i < Config.kMax), i < k.toNat → t.digest[i] = hash32 x (seed + BitVec.ofNat 32 i)) ∧
      (∀ (i : Nat) (h : i < Config.kMax), k.toNat ≤ i → t.digest[i] = 0#32 ∧ t.bitidx[i] = 0#32) ∧
      (seed = 0#32 →
        (buckets k.toNat size.toNat x).length = k.toNat ∧
        ∀ (i : Nat) (h : i < Config.kMax), i < k.toNat →
          (buckets k.toNat size.toNat x)[i]? =
            some ((bucketIndex t.bitidx[i]).toNat, (bucketPosition t.bitidx[i]).toNat))

/-- R184: from reset, START, the PUSHes of a key, FINISH, with no configuration write. -/
def Obligations.ResetConfigurationHashes : Prop :=
  ∀ (pushes : List (BitVec 2 × Word)) (x : List Byte),
    x = pushes.flatMap (fun p => (List.range (p.1.toNat + 1)).map fun j => p.2.extractLsb' (8 * j) 8) →
    x.length ≤ 2 ^ 32 - 1 →
    ∃ t, runCommands (State.reset.toEngine.latch .start :: pushes.map (fun p => .push p.1 p.2) ++ [.finish])
        State.reset = .next t ∧
      ∀ h : 0 < Config.kMax, t.digest[0] = hash32 x 0#32 ∧ t.bitidx[0] = hash32 x 0#32 &&& 7#32

/-- R80, R146, R58: PUSHKEY, under every order of the host's and the engine's turns, without a reset. If the script has ended,
nothing is pending, and the engine is as it was but for KEYDATA and for KEY, which has exactly the bytes appended; and some
order of turns ends the script. -/
def Obligations.PushKeyAppendsTheBytes : Prop :=
  ∀ (s : State) (b : List Byte) (values : List (String × Word)), s.pending = none → s.errcode = .noError →
    s.phase = .absorb → s.key.length + b.length ≤ 2 ^ 32 - 1 →
    (∃ (turns : List Turn) (r : HostRun), Turn.reset ∉ turns ∧
      takeTurns turns ⟨s, pushKeyLines b, values⟩ = .next r ∧ r.ended = true) ∧
    (∀ (turns : List Turn) (r : HostRun), Turn.reset ∉ turns →
      takeTurns turns ⟨s, pushKeyLines b, values⟩ = .next r → r.ended = true →
      quiescent r.machine = true ∧
      r.machine.toEngine = { s.toEngine with key := s.key ++ b, keydata := r.machine.keydata } ∧ r.values = values)

/-- R80, R185, R58: HASHKEY, under every order of the host's and the engine's turns, without a reset. If the script has ended,
the engine is quiescent in DONE without an error and every active lane holds the digest of the key and its reduction. -/
def Obligations.HashKeyUnderEverySchedule : Prop :=
  ∀ (s : State) (b : List Byte) (k size seed : Word) (values : List (String × Word)) (turns : List Turn) (r : HostRun),
    s.pending = none → s.errcode = .noError → k ≠ 0#32 → k.toNat ≤ Config.kMax → size ≠ 0#32 →
    b.length ≤ 2 ^ 32 - 1 → Turn.reset ∉ turns →
    takeTurns turns ⟨s, hashKeyLines b k size seed, values⟩ = .next r → r.ended = true →
    quiescent r.machine = true ∧ r.machine.phase = .done ∧ r.machine.errcode = .noError ∧ r.machine.key = b ∧
    ∀ (i : Nat) (h : i < Config.kMax), i < k.toNat →
      r.machine.digest[i] = hash32 b (seed + BitVec.ofNat 32 i) ∧
      r.machine.bitidx[i].toNat = (hash32 b (seed + BitVec.ofNat 32 i)).toNat % (8 * size.toNat)

end
end

