-- ==== Sys2Proof/Laws/State.lean ====
section
/-! SUPPORT. One lemma per field per update, for the updates of the engine and of the machine. -/

namespace Sys2Proof.Machine

namespace Engine

variable {K : Nat}

@[simp] theorem recordErr_cfgK (c : ErrCode) (e : Engine K) : (e.recordErr c).cfgK = e.cfgK := by unfold recordErr; split <;> rfl
@[simp] theorem recordErr_cfgSize (c : ErrCode) (e : Engine K) : (e.recordErr c).cfgSize = e.cfgSize := by unfold recordErr; split <;> rfl
@[simp] theorem recordErr_seed (c : ErrCode) (e : Engine K) : (e.recordErr c).seed = e.seed := by unfold recordErr; split <;> rfl
@[simp] theorem recordErr_keydata (c : ErrCode) (e : Engine K) : (e.recordErr c).keydata = e.keydata := by unfold recordErr; split <;> rfl
@[simp] theorem recordErr_phase (c : ErrCode) (e : Engine K) : (e.recordErr c).phase = e.phase := by unfold recordErr; split <;> rfl
@[simp] theorem recordErr_key (c : ErrCode) (e : Engine K) : (e.recordErr c).key = e.key := by unfold recordErr; split <;> rfl
@[simp] theorem recordErr_pending (c : ErrCode) (e : Engine K) : (e.recordErr c).pending = e.pending := by unfold recordErr; split <;> rfl
@[simp] theorem recordErr_actK (c : ErrCode) (e : Engine K) : (e.recordErr c).actK = e.actK := by unfold recordErr; split <;> rfl
@[simp] theorem recordErr_actSize (c : ErrCode) (e : Engine K) : (e.recordErr c).actSize = e.actSize := by unfold recordErr; split <;> rfl
@[simp] theorem recordErr_actSeed (c : ErrCode) (e : Engine K) : (e.recordErr c).actSeed = e.actSeed := by unfold recordErr; split <;> rfl
@[simp] theorem recordErr_digest (c : ErrCode) (e : Engine K) : (e.recordErr c).digest = e.digest := by unfold recordErr; split <;> rfl
@[simp] theorem recordErr_bitidx (c : ErrCode) (e : Engine K) : (e.recordErr c).bitidx = e.bitidx := by unfold recordErr; split <;> rfl

@[simp] theorem clearLanes_cfgK (e : Engine K) : (e.clearLanes).cfgK = e.cfgK := rfl
@[simp] theorem clearLanes_cfgSize (e : Engine K) : (e.clearLanes).cfgSize = e.cfgSize := rfl
@[simp] theorem clearLanes_seed (e : Engine K) : (e.clearLanes).seed = e.seed := rfl
@[simp] theorem clearLanes_keydata (e : Engine K) : (e.clearLanes).keydata = e.keydata := rfl
@[simp] theorem clearLanes_phase (e : Engine K) : (e.clearLanes).phase = e.phase := rfl
@[simp] theorem clearLanes_errcode (e : Engine K) : (e.clearLanes).errcode = e.errcode := rfl
@[simp] theorem clearLanes_key (e : Engine K) : (e.clearLanes).key = e.key := rfl
@[simp] theorem clearLanes_pending (e : Engine K) : (e.clearLanes).pending = e.pending := rfl
@[simp] theorem clearLanes_actK (e : Engine K) : (e.clearLanes).actK = e.actK := rfl
@[simp] theorem clearLanes_actSize (e : Engine K) : (e.clearLanes).actSize = e.actSize := rfl
@[simp] theorem clearLanes_actSeed (e : Engine K) : (e.clearLanes).actSeed = e.actSeed := rfl
@[simp] theorem clearLanes_digest (e : Engine K) : (e.clearLanes).digest = Vector.replicate K 0#32 := rfl
@[simp] theorem clearLanes_bitidx (e : Engine K) : (e.clearLanes).bitidx = Vector.replicate K 0#32 := rfl

@[simp] theorem recover_cfgK (e : Engine K) : (e.recover).cfgK = e.cfgK := rfl
@[simp] theorem recover_cfgSize (e : Engine K) : (e.recover).cfgSize = e.cfgSize := rfl
@[simp] theorem recover_seed (e : Engine K) : (e.recover).seed = e.seed := rfl
@[simp] theorem recover_keydata (e : Engine K) : (e.recover).keydata = e.keydata := rfl
@[simp] theorem recover_phase (e : Engine K) : (e.recover).phase = .idle := rfl
@[simp] theorem recover_errcode (e : Engine K) : (e.recover).errcode = .noError := rfl
@[simp] theorem recover_key (e : Engine K) : (e.recover).key = [] := rfl
@[simp] theorem recover_pending (e : Engine K) : (e.recover).pending = e.pending := rfl
@[simp] theorem recover_actK (e : Engine K) : (e.recover).actK = 0#32 := rfl
@[simp] theorem recover_actSize (e : Engine K) : (e.recover).actSize = 0#32 := rfl
@[simp] theorem recover_actSeed (e : Engine K) : (e.recover).actSeed = 0#32 := rfl
@[simp] theorem recover_digest (e : Engine K) : (e.recover).digest = Vector.replicate K 0#32 := rfl
@[simp] theorem recover_bitidx (e : Engine K) : (e.recover).bitidx = Vector.replicate K 0#32 := rfl

@[simp] theorem beginKey_cfgK (k size seed : Word) (e : Engine K) : (e.beginKey k size seed).cfgK = e.cfgK := rfl
@[simp] theorem beginKey_cfgSize (k size seed : Word) (e : Engine K) : (e.beginKey k size seed).cfgSize = e.cfgSize := rfl
@[simp] theorem beginKey_seed (k size seed : Word) (e : Engine K) : (e.beginKey k size seed).seed = e.seed := rfl
@[simp] theorem beginKey_keydata (k size seed : Word) (e : Engine K) : (e.beginKey k size seed).keydata = e.keydata := rfl
@[simp] theorem beginKey_phase (k size seed : Word) (e : Engine K) : (e.beginKey k size seed).phase = .absorb := rfl
@[simp] theorem beginKey_errcode (k size seed : Word) (e : Engine K) : (e.beginKey k size seed).errcode = e.errcode := rfl
@[simp] theorem beginKey_key (k size seed : Word) (e : Engine K) : (e.beginKey k size seed).key = [] := rfl
@[simp] theorem beginKey_pending (k size seed : Word) (e : Engine K) : (e.beginKey k size seed).pending = e.pending := rfl
@[simp] theorem beginKey_actK (k size seed : Word) (e : Engine K) : (e.beginKey k size seed).actK = k := rfl
@[simp] theorem beginKey_actSize (k size seed : Word) (e : Engine K) : (e.beginKey k size seed).actSize = size := rfl
@[simp] theorem beginKey_actSeed (k size seed : Word) (e : Engine K) : (e.beginKey k size seed).actSeed = seed := rfl
@[simp] theorem beginKey_digest (k size seed : Word) (e : Engine K) : (e.beginKey k size seed).digest = Vector.replicate K 0#32 := rfl
@[simp] theorem beginKey_bitidx (k size seed : Word) (e : Engine K) : (e.beginKey k size seed).bitidx = Vector.replicate K 0#32 := rfl

@[simp] theorem closeKey_cfgK (e : Engine K) : (e.closeKey).cfgK = e.cfgK := rfl
@[simp] theorem closeKey_cfgSize (e : Engine K) : (e.closeKey).cfgSize = e.cfgSize := rfl
@[simp] theorem closeKey_seed (e : Engine K) : (e.closeKey).seed = e.seed := rfl
@[simp] theorem closeKey_keydata (e : Engine K) : (e.closeKey).keydata = e.keydata := rfl
@[simp] theorem closeKey_phase (e : Engine K) : (e.closeKey).phase = .done := rfl
@[simp] theorem closeKey_errcode (e : Engine K) : (e.closeKey).errcode = e.errcode := rfl
@[simp] theorem closeKey_key (e : Engine K) : (e.closeKey).key = e.key := rfl
@[simp] theorem closeKey_pending (e : Engine K) : (e.closeKey).pending = e.pending := rfl
@[simp] theorem closeKey_actK (e : Engine K) : (e.closeKey).actK = e.actK := rfl
@[simp] theorem closeKey_actSize (e : Engine K) : (e.closeKey).actSize = e.actSize := rfl
@[simp] theorem closeKey_actSeed (e : Engine K) : (e.closeKey).actSeed = e.actSeed := rfl

@[simp] theorem reset_cfgK : (Engine.reset K).cfgK = 1#32 := rfl
@[simp] theorem reset_cfgSize : (Engine.reset K).cfgSize = 1#32 := rfl
@[simp] theorem reset_seed : (Engine.reset K).seed = 0#32 := rfl
@[simp] theorem reset_keydata : (Engine.reset K).keydata = 0#32 := rfl
@[simp] theorem reset_phase : (Engine.reset K).phase = .idle := rfl
@[simp] theorem reset_errcode : (Engine.reset K).errcode = .noError := rfl
@[simp] theorem reset_key : (Engine.reset K).key = [] := rfl
@[simp] theorem reset_pending : (Engine.reset K).pending = none := rfl
@[simp] theorem reset_actK : (Engine.reset K).actK = 0#32 := rfl
@[simp] theorem reset_actSize : (Engine.reset K).actSize = 0#32 := rfl
@[simp] theorem reset_actSeed : (Engine.reset K).actSeed = 0#32 := rfl
@[simp] theorem reset_digest : (Engine.reset K).digest = Vector.replicate K 0#32 := rfl
@[simp] theorem reset_bitidx : (Engine.reset K).bitidx = Vector.replicate K 0#32 := rfl

end Engine

@[simp] theorem clearPending_cfgK (s : State) : (clearPending s).cfgK = s.cfgK := rfl
@[simp] theorem clearPending_cfgSize (s : State) : (clearPending s).cfgSize = s.cfgSize := rfl
@[simp] theorem clearPending_seed (s : State) : (clearPending s).seed = s.seed := rfl
@[simp] theorem clearPending_keydata (s : State) : (clearPending s).keydata = s.keydata := rfl
@[simp] theorem clearPending_phase (s : State) : (clearPending s).phase = s.phase := rfl
@[simp] theorem clearPending_errcode (s : State) : (clearPending s).errcode = s.errcode := rfl
@[simp] theorem clearPending_key (s : State) : (clearPending s).key = s.key := rfl
@[simp] theorem clearPending_pending (s : State) : (clearPending s).pending = none := rfl
@[simp] theorem clearPending_actK (s : State) : (clearPending s).actK = s.actK := rfl
@[simp] theorem clearPending_actSize (s : State) : (clearPending s).actSize = s.actSize := rfl
@[simp] theorem clearPending_actSeed (s : State) : (clearPending s).actSeed = s.actSeed := rfl
@[simp] theorem clearPending_digest (s : State) : (clearPending s).digest = s.digest := rfl
@[simp] theorem clearPending_bitidx (s : State) : (clearPending s).bitidx = s.bitidx := rfl
@[simp] theorem clearPending_schedule (s : State) : (clearPending s).schedule = s.schedule := rfl
@[simp] theorem clearPending_readData (s : State) : (clearPending s).readData = s.readData := rfl
@[simp] theorem clearPending_draws (s : State) : (clearPending s).draws = s.draws := rfl

@[simp] theorem resetEvent_toEngine (s : State) : (resetEvent s).toEngine = Engine.reset Config.kMax := rfl
@[simp] theorem resetEvent_schedule (s : State) : (resetEvent s).schedule = s.schedule := rfl
@[simp] theorem resetEvent_readData (s : State) : (resetEvent s).readData = s.readData := rfl
@[simp] theorem resetEvent_draws (s : State) : (resetEvent s).draws = s.draws := rfl

/-- K_MAX has at least one lane (00_scope.md R4). -/
theorem kMax_pos : 1 ≤ Config.kMax := Nat.succ_le_succ (Nat.zero_le _)

/-- K_MAX is at most 256 (00_scope.md R4). -/
theorem kMax_le : Config.kMax ≤ 256 := Config.lastLane.isLt

end Sys2Proof.Machine
end

