-- ==== Sys2Proof/Laws/Commands.lean ====
section
/-! SUPPORT. One specification lemma per shared operation and per command: everything it can do. Later proofs cite these and
do not unfold the definitions. -/

namespace Sys2Proof.Machine

namespace Engine

variable {K : Nat}

theorem poisoned_iff (e : Engine K) : e.poisoned = true ↔ e.errcode ≠ .noError := by simp [poisoned]

/-- The first error is recorded. -/
theorem recordErr_of_noError {e : Engine K} (c : ErrCode) (h : e.errcode = .noError) :
    e.recordErr c = { e with errcode := c } := if_pos h

/-- A later error is not. -/
theorem recordErr_of_error {e : Engine K} (c : ErrCode) (h : e.errcode ≠ .noError) : e.recordErr c = e := if_neg h

/-- What an issue can do. -/
theorem issue_cases (e : Engine K) (w : Word) :
    (e.pending ≠ none ∧ e.issue w = e.recordErr .busy) ∨
    (e.pending = none ∧ (∃ r, decode w = .error r) ∧ e.issue w = e.recordErr .illegal) ∨
    (∃ i, e.pending = none ∧ decode w = .ok i ∧ e.issue w = { e with pending := some (e.latch i) }) := by
  unfold issue
  cases hp : e.pending with
  | some c => simp
  | none => cases hd : decode w <;> simp

/-- What START can do, in the order of its checks. -/
theorem start_cases (k size seed : Word) (e : Engine K) :
    (e.errcode ≠ .noError ∧ e.start k size seed = e) ∨
    (e.errcode = .noError ∧ (k = 0#32 ∨ K < k.toNat) ∧ e.start k size seed = { e with errcode := .cfgK }) ∨
    (e.errcode = .noError ∧ k ≠ 0#32 ∧ k.toNat ≤ K ∧ size = 0#32 ∧
      e.start k size seed = { e with errcode := .cfgSize }) ∨
    (e.errcode = .noError ∧ k ≠ 0#32 ∧ k.toNat ≤ K ∧ size ≠ 0#32 ∧ e.start k size seed = e.beginKey k size seed) := by
  by_cases hp : e.errcode = .noError
  · by_cases hk : k = 0#32 ∨ K < k.toNat
    · simp [start, poisoned, hp, hk, recordErr]
    · obtain ⟨hk0, hk1⟩ := not_or.mp hk
      by_cases hs : size = 0#32 <;> simp [start, poisoned, hp, hk0, hk1, hs, recordErr, Nat.le_of_not_lt hk1]
  · exact .inl ⟨hp, by simp [start, poisoned, hp]⟩

/-- What PUSH can do, in the order of its checks. -/
theorem push_cases (cnt : BitVec 2) (data : Word) (e : Engine K) :
    (e.errcode ≠ .noError ∧ e.push cnt data = e) ∨
    (e.errcode = .noError ∧ e.phase ≠ .absorb ∧ e.push cnt data = { e with errcode := .seq }) ∨
    (e.errcode = .noError ∧ e.phase = .absorb ∧ maxKeyLength < e.key.length + pushCount cnt ∧
      e.push cnt data = { e with errcode := .len }) ∨
    (e.errcode = .noError ∧ e.phase = .absorb ∧ e.key.length + pushCount cnt ≤ maxKeyLength ∧
      e.push cnt data = { e with key := e.key ++ pushBytes cnt data }) := by
  by_cases hp : e.errcode = .noError
  · by_cases ha : e.phase = .absorb
    · by_cases hl : maxKeyLength < e.key.length + pushCount cnt
      · simp [push, poisoned, hp, ha, hl, recordErr]
      · simp [push, poisoned, hp, ha, hl, Nat.le_of_not_lt hl]
    · simp [push, poisoned, hp, ha, recordErr]
  · exact .inl ⟨hp, by simp [push, poisoned, hp]⟩

/-- What FINISH can do, in the order of its checks. -/
theorem finish_cases (e : Engine K) :
    (e.errcode ≠ .noError ∧ e.finish = e) ∨
    (e.errcode = .noError ∧ e.phase ≠ .absorb ∧ e.finish = { e with errcode := .seq }) ∨
    (e.errcode = .noError ∧ e.phase = .absorb ∧ e.finish = e.closeKey) := by
  by_cases hp : e.errcode = .noError
  · by_cases ha : e.phase = .absorb <;> simp [finish, poisoned, hp, ha, recordErr]
  · exact .inl ⟨hp, by simp [finish, poisoned, hp]⟩

/-- DIGEST after FINISH, lane by lane. -/
theorem closeKey_digest (e : Engine K) (i : Nat) (h : i < K) :
    e.closeKey.digest[i] = if i < e.actK.toNat then e.laneDigest i else e.digest[i] := by
  simp [closeKey]

/-- BITIDX after FINISH, lane by lane. -/
theorem closeKey_bitidx (e : Engine K) (i : Nat) (h : i < K) :
    e.closeKey.bitidx[i] = if i < e.actK.toNat then bitIndex (e.laneDigest i) e.actSize else e.bitidx[i] := by
  simp [closeKey]

/-- The operands of a START that is pending are the latched ones. -/
theorem startOperands_of_pending {e : Engine K} {k size seed : Word} (h : e.pending = some (.start k size seed)) :
    e.startOperands = (k, size, seed) := by simp [startOperands, h]

/-- The data of a PUSH that is pending is the latched one. -/
theorem pushData_of_pending {e : Engine K} {cnt : BitVec 2} {data : Word} (h : e.pending = some (.push cnt data)) :
    e.pushData cnt = data := by simp [pushData, h]

end Engine

/-- What a latched command does to the engine (42_commands.md R143 to R148): the effect `exec` has when the command is the
pending one (`exec_pending`). -/
def Engine.execute {K : Nat} (e : Engine K) : Command → Engine K
  | .nop => e
  | .start k size seed => e.start k size seed
  | .push cnt data => e.push cnt data
  | .finish => e.finish
  | .abort => e.recover

/-- The meaning of a pending command is its effect on the engine. -/
theorem exec_pending {s : State} {c : Command} (h : s.pending = some c) :
    exec c.instr s = .next { s with toEngine := s.toEngine.execute c } := by
  cases c with
  | nop => rfl
  | start k size seed => simp [Command.instr, exec, execStart, Engine.startOperands_of_pending h, Engine.execute]
  | push cnt data => simp [Command.instr, exec, execPush, Engine.pushData_of_pending h, Engine.execute]
  | finish => rfl
  | abort => rfl

/-- A latched command is of the command it was latched from. -/
@[simp] theorem Engine.latch_instr {K : Nat} (e : Engine K) (i : Instr) : (e.latch i).instr = i := by cases i <;> rfl

/-- The bit index of a digest, as a number: the reduction never wraps (41_address_decoder.md R121, R122). -/
theorem bitIndex_toNat (d : Word) {size : Word} (hs : size ≠ 0#32) :
    (bitIndex d size).toNat = d.toNat % (8 * size.toNat) := by
  have h := Nat.mod_le d.toNat (8 * size.toNat)
  have h' := d.isLt
  simp only [bitIndex, if_neg hs, mbits, BitVec.toNat_ofNat]
  exact Nat.mod_eq_of_lt (by omega)

end Sys2Proof.Machine
end

