-- ==== Sys2Proof/Laws/Events.lean ====
section
/-! SUPPORT. What an event and a step can do. -/

namespace Sys2Proof.Machine

/-- The engine's turn with nothing pending. -/
theorem engineTurn_idle {s : State} (h : s.pending = none) : engineTurn s = .next s := by simp [engineTurn, h]

/-- The engine's turn with a command pending: `Exec(c)`, then PENDING <- none. -/
theorem engineTurn_pending {s : State} {c : Command} (h : s.pending = some c) :
    engineTurn s = retire (exec c.instr s) := by simp [engineTurn, h]

/-- The engine's turn, whole: the pending command's effect on the engine, then PENDING <- none. -/
theorem engineTurn_effect {s : State} {c : Command} (h : s.pending = some c) :
    engineTurn s = .next { s with toEngine := { s.toEngine.execute c with pending := none } } := by
  rw [engineTurn_pending h, exec_pending h]; rfl

/-- What the engine's turn did. -/
theorem engineTurn_cases {s t : State} (h : engineTurn s = .next t) :
    (s.pending = none ∧ t = s) ∨
    (∃ c, s.pending = some c ∧ t = { s with toEngine := { s.toEngine.execute c with pending := none } }) := by
  cases hp : s.pending with
  | none => rw [engineTurn_idle hp] at h; exact .inl ⟨rfl, by simpa using h.symm⟩
  | some c => rw [engineTurn_effect hp] at h; exact .inr ⟨c, rfl, by simpa using h.symm⟩

/-- The engine's turn never stops. -/
theorem engineTurn_completes (s : State) : ∃ t, engineTurn s = .next t := by
  cases h : s.pending with
  | none => exact ⟨s, engineTurn_idle h⟩
  | some c => exact ⟨_, engineTurn_effect h⟩

/-- An admitted read, whole. -/
theorem transact_read {off : Offset} (h : off.toNat % 4 = 0) (s : State) :
    transact (.read .bits32 off) s = .next { s with
      readData := some (s.toEngine.regRead (Config.freeWord s.draws) off), draws := s.draws + 1 } := by
  simp [transact, Transaction.widthOk, Transaction.aligned, Transaction.width, Transaction.off, h]

/-- An admitted write, whole. -/
theorem transact_write {off : Offset} (h : off.toNat % 4 = 0) (v : Word) (s : State) :
    transact (.write .bits32 off v) s = .next { s with toEngine := s.toEngine.regWrite off v } := by
  simp [transact, Transaction.widthOk, Transaction.aligned, Transaction.width, Transaction.off, h]

/-- What a transaction that goes on did. -/
theorem transact_cases {t : Transaction} {s s' : State} (h : transact t s = .next s') :
    (∃ off, t = .read .bits32 off ∧ off.toNat % 4 = 0 ∧ s' = { s with
      readData := some (s.toEngine.regRead (Config.freeWord s.draws) off), draws := s.draws + 1 }) ∨
    (∃ off v, t = .write .bits32 off v ∧ off.toNat % 4 = 0 ∧
      s' = { s with toEngine := s.toEngine.regWrite off v }) := by
  by_cases hw : t.widthOk = true
  · by_cases ha : t.aligned = true
    · cases t with
      | read width off =>
        simp only [Transaction.widthOk, Transaction.width, beq_iff_eq] at hw
        simp only [Transaction.aligned, Transaction.off, beq_iff_eq] at ha
        subst hw
        rw [transact_read ha] at h
        exact .inl ⟨off, rfl, ha, by simpa using h.symm⟩
      | write width off v =>
        simp only [Transaction.widthOk, Transaction.width, beq_iff_eq] at hw
        simp only [Transaction.aligned, Transaction.off, beq_iff_eq] at ha
        subst hw
        rw [transact_write ha] at h
        exact .inr ⟨off, v, rfl, ha, by simpa using h.symm⟩
    · simp [transact, hw, ha] at h
  · simp [transact, hw] at h

/-- A transaction goes on exactly when it is admitted (20_memory.md R53, R54). -/
theorem transact_completes {t : Transaction} (h : t.admitted = true) (s : State) : ∃ s', transact t s = .next s' := by
  obtain ⟨hw, ha⟩ : t.widthOk = true ∧ t.aligned = true := by simpa [Transaction.admitted] using h
  cases t <;> simp [transact, hw, ha]

/-- An empty schedule leaves the engine's turn. -/
theorem step_empty {s : State} (h : s.schedule = []) : step s = engineTurn s := by simp [step, h]

/-- A scheduled event is run on the state without it. -/
theorem step_event {s : State} {ev : Event} {rest : List Event} (h : s.schedule = ev :: rest) :
    step s = runEvent ev { s with schedule := rest } := by simp [step, h]

/-- What a register write can do (20_memory.md R64). -/
theorem regWrite_cases {K : Nat} (e : Engine K) (off : Offset) (v : Word) :
    (off = 0x000#12 ∧ e.regWrite off v = e.issue v) ∨
    (off = 0x00C#12 ∧ e.regWrite off v = { e with cfgK := v }) ∨
    (off = 0x010#12 ∧ e.regWrite off v = { e with cfgSize := v }) ∨
    (off = 0x014#12 ∧ e.regWrite off v = { e with seed := v }) ∨
    (off = 0x018#12 ∧ e.regWrite off v = { e with keydata := v }) ∨
    (off ≠ 0x000#12 ∧ off ≠ 0x00C#12 ∧ off ≠ 0x010#12 ∧ off ≠ 0x014#12 ∧ off ≠ 0x018#12 ∧ e.regWrite off v = e) := by
  by_cases h0 : off = 0x000#12
  · exact .inl ⟨h0, by subst h0; rfl⟩
  by_cases h1 : off = 0x00C#12
  · exact .inr (.inl ⟨h1, by subst h1; rfl⟩)
  by_cases h2 : off = 0x010#12
  · exact .inr (.inr (.inl ⟨h2, by subst h2; rfl⟩))
  by_cases h3 : off = 0x014#12
  · exact .inr (.inr (.inr (.inl ⟨h3, by subst h3; rfl⟩)))
  by_cases h4 : off = 0x018#12
  · exact .inr (.inr (.inr (.inr (.inl ⟨h4, by subst h4; rfl⟩))))
  refine .inr (.inr (.inr (.inr (.inr ⟨h0, h1, h2, h3, h4, ?_⟩))))
  unfold Engine.regWrite regAt
  simp only [h0, h1, h2, h3, h4, if_false]
  repeat' split
  all_goals rfl

/-- What a step that goes on did: the engine's turn, a reset, or a host's transaction. -/
theorem step_cases {s t : State} (h : step s = .next t) :
    (s.schedule = [] ∧ engineTurn s = .next t) ∨
    (∃ rest, s.schedule = .engine :: rest ∧ engineTurn { s with schedule := rest } = .next t) ∨
    (∃ rest, s.schedule = .reset :: rest ∧ t = resetEvent { s with schedule := rest }) ∨
    (∃ rest tr, s.schedule = .host tr :: rest ∧ transact tr { s with schedule := rest } = .next t) := by
  cases hs : s.schedule with
  | nil => exact .inl ⟨rfl, by rw [← step_empty hs, h]⟩
  | cons ev rest =>
    rw [step_event hs] at h
    cases ev with
    | host tr => exact .inr (.inr (.inr ⟨rest, tr, rfl, h⟩))
    | engine => exact .inr (.inl ⟨rest, rfl, h⟩)
    | reset => exact .inr (.inr (.inl ⟨rest, rfl, by simpa [runEvent] using h.symm⟩))

/-- What a step that goes on did to the engine: the engine's turn with nothing pending, the pending command's effect, a
reset, or a host's read or write. -/
theorem step_engine {s t : State} (h : step s = .next t) :
    (s.engineMoves ∧ s.pending = none ∧ t.toEngine = s.toEngine) ∨
    (s.engineMoves ∧ ∃ c, s.pending = some c ∧ t.toEngine = { s.toEngine.execute c with pending := none }) ∨
    (s.resetMoves ∧ ¬ s.engineMoves ∧ t.toEngine = Engine.reset Config.kMax) ∨
    (∃ rest tr, s.schedule = .host tr :: rest ∧ ¬ s.engineMoves ∧ ¬ s.resetMoves ∧
      ((∃ off, tr = .read .bits32 off ∧ t.toEngine = s.toEngine) ∨
       (∃ off v, tr = .write .bits32 off v ∧ off.toNat % 4 = 0 ∧ t.toEngine = s.toEngine.regWrite off v))) := by
  rcases step_cases h with ⟨hs, h⟩ | ⟨rest, hs, h⟩ | ⟨rest, hs, h⟩ | ⟨rest, tr, hs, h⟩
  · rcases engineTurn_cases h with ⟨hp, rfl⟩ | ⟨c, hp, rfl⟩
    · exact .inl ⟨.inl hs, hp, rfl⟩
    · exact .inr (.inl ⟨.inl hs, c, hp, rfl⟩)
  · have moves : s.engineMoves := .inr (by rw [hs]; rfl)
    rcases engineTurn_cases h with ⟨hp, rfl⟩ | ⟨c, hp, rfl⟩
    · exact .inl ⟨moves, hp, rfl⟩
    · exact .inr (.inl ⟨moves, c, hp, rfl⟩)
  · subst h
    exact .inr (.inr (.inl ⟨by simp [State.resetMoves, hs], by simp [State.engineMoves, hs], rfl⟩))
  · refine .inr (.inr (.inr ⟨rest, tr, hs, by simp [State.engineMoves, hs], by simp [State.resetMoves, hs], ?_⟩))
    rcases transact_cases h with ⟨off, rfl, _, rfl⟩ | ⟨off, v, rfl, ha, rfl⟩
    · exact .inl ⟨off, rfl, rfl⟩
    · exact .inr ⟨off, v, rfl, ha, rfl⟩

/-- A write to CMD is an issue (20_memory.md R64). -/
theorem regWrite_cmd {K : Nat} (e : Engine K) (w : Word) : e.regWrite 0x000#12 w = e.issue w := rfl

end Sys2Proof.Machine
end

