-- ==== Sys2Proof/Laws/Hash.lean ====
section
/-! SUPPORT. Small facts about the hash's parts. -/

namespace Sys2Proof.Machine

theorem mixK_zero : mixK 0#32 = 0#32 := by decide

theorem fmix_zero : fmix 0#32 = 0#32 := by decide

/-- The streaming state after no byte. -/
theorem streamStart_fields (h : Word) :
    (streamStart h).buf = [] ∧ (streamStart h).len = 0#32 ∧ (streamStart h).h = h := ⟨rfl, rfl, rfl⟩

/-- A key shorter than a chunk has no body. -/
theorem bodyHash_short {key : List Byte} (h : key.length < 4) (seed : Word) : bodyHash key seed = seed := by
  simp [bodyHash, nblocks, Nat.div_eq_of_lt h]

/-- Chunks that end inside `key` do not see what is appended after it. -/
theorem chunk_append {key : List Byte} {b : Nat} (h : 4 * b + 3 < key.length) (more : List Byte) :
    chunk (key ++ more) b = chunk key b := by
  simp only [chunk]
  congr 1 <;> rw [List.getD_eq_getElem?_getD, List.getElem?_append_left (by omega), ← List.getD_eq_getElem?_getD]

end Sys2Proof.Machine
end

