-- ==== Sys2Proof/Laws/PerInstr.lean ====
section
/-! SUPPORT. Facts about every command as syntax, one lemma per constructor. -/

/-- The word of a command is covered by its own row of the opcode map and by no other (30_encoding.md R71, R77). -/
def Sys2Proof.Laws.OpcodeRow.Statement (i : Sys2Proof.Instr) : Prop :=
  Sys2Proof.rowsOf (Sys2Proof.encode i) = [i.rowName]

theorem Sys2Proof.Laws.OpcodeRow.nop : Sys2Proof.Laws.OpcodeRow.Statement .nop := by
  unfold Sys2Proof.Laws.OpcodeRow.Statement; decide

theorem Sys2Proof.Laws.OpcodeRow.start : Sys2Proof.Laws.OpcodeRow.Statement .start := by
  unfold Sys2Proof.Laws.OpcodeRow.Statement; decide

theorem Sys2Proof.Laws.OpcodeRow.push : ∀ cnt, Sys2Proof.Laws.OpcodeRow.Statement (.push cnt) := by
  unfold Sys2Proof.Laws.OpcodeRow.Statement; decide

theorem Sys2Proof.Laws.OpcodeRow.finish : Sys2Proof.Laws.OpcodeRow.Statement .finish := by
  unfold Sys2Proof.Laws.OpcodeRow.Statement; decide

theorem Sys2Proof.Laws.OpcodeRow.abort : Sys2Proof.Laws.OpcodeRow.Statement .abort := by
  unfold Sys2Proof.Laws.OpcodeRow.Statement; decide
end

