-- ==== Sys2Proof/Tests/Slice0.lean ====
section
/-! SUPPORT. Tests on small values. Every expected value is one of the spec: its encodings (30_encoding.md), its rules' own
examples, and the vectors of 95_test_vectors.md, named before each group. Engines have 32 lanes here, K_MAX = 32 as in the
spec's worked examples (00_scope.md R4). -/

namespace Sys2Proof.Tests

open Sys2Proof.Machine

/-! Decoding: words written out from 30_encoding.md R70 (RSV ++ CNT ++ OP), rows of R77. -/

theorem test_decode_nop : decode (0b00000000000000000000000000#26 ++ 0b00#2 ++ 0b0000#4) = .ok .nop := by rfl
theorem test_decode_start : decode (0b00000000000000000000000000#26 ++ 0b00#2 ++ 0b0001#4) = .ok .start := by rfl
theorem test_decode_push_one : decode (0b00000000000000000000000000#26 ++ 0b00#2 ++ 0b0010#4) = .ok (.push 0) := by rfl
theorem test_decode_push_four : decode (0b00000000000000000000000000#26 ++ 0b11#2 ++ 0b0010#4) = .ok (.push 3) := by rfl
theorem test_decode_finish : decode (0b00000000000000000000000000#26 ++ 0b00#2 ++ 0b0011#4) = .ok .finish := by rfl
theorem test_decode_abort : decode (0b00000000000000000000000000#26 ++ 0b00#2 ++ 0b0100#4) = .ok .abort := by rfl

/-! The same as numbers (R77), and the illegal words of 95_test_vectors.md 2.6, each case of R74. -/

theorem test_decode_push_words :
    [0x00000002#32, 0x00000012#32, 0x00000022#32, 0x00000032#32].map (fun w => (decode w).toOption)
      = [some (.push 0), some (.push 1), some (.push 2), some (.push 3)] := by decide
theorem test_decode_unknown_op :
    legal 0x00000005#32 = false ∧ illegalReason 0x00000005#32 = .unknownOp ∧ legal 0x0000000F#32 = false := by decide
theorem test_decode_nonzero_cnt :
    legal 0x00000010#32 = false ∧ legal 0x00000011#32 = false ∧ illegalReason 0x00000033#32 = .nonzeroCnt := by decide
theorem test_decode_nonzero_rsv :
    legal 0x00000042#32 = false ∧ legal 0x80000001#32 = false ∧ illegalReason 0x80000001#32 = .nonzeroRsv := by decide
theorem test_decodeTableWord :
    decodeTableWord 32 0x32 = some (.push 3) ∧ decodeTableWord 32 0x33 = none ∧ decodeTableWord 32 4 = some .abort := by
  decide

/-! WellFormed: an ill-formed transaction for each check (20_memory.md R53, R54), which the check refuses. -/

theorem test_width_check_refuses : (Transaction.read .bits8 0x004#12).widthOk = false := by decide
theorem test_alignment_check_refuses : (Transaction.write .bits32 0x002#12 0#32).aligned = false := by decide
theorem test_admitted_refuses_both :
    (Transaction.read .burst 0x000#12).admitted = false ∧ (Transaction.read .bits32 0xFFD#12).admitted = false ∧
    (Transaction.read .bits32 0xFFC#12).admitted = true := by decide
theorem test_every_command_well_formed : (Instr.push 3#2).wellFormed = true := by decide

/-! Primitives, 95_test_vectors.md 2.1. -/

theorem test_rotl : rotl 0x80000001#32 15 = 0x0000c000#32 ∧ rotl 0x12345678#32 13 = 0x8acf0246#32 := by decide
theorem test_mixK : mixK 0x00000001#32 = 0xc3539a5d#32 ∧ mixK 0x64636261#32 = 0x5b9433b7#32 := by decide
theorem test_mixH : mixH 0x80000000#32 = 0xe654bb64#32 ∧ mixH 0xffffffff#32 = 0xe6546b5f#32 := by decide
theorem test_fmix : fmix 0x80000000#32 = 0x6d3c65a0#32 ∧ fmix 0x0b9a97d2#32 = 0xe89b9af6#32 := by decide
theorem test_le32 : le32 0x68#8 0x65#8 0x6c#8 0x6c#8 = 0x6c6c6568#32 := by decide

/-- "hello" (95_test_vectors.md T2). -/
def hello : List Byte := [0x68#8, 0x65#8, 0x6c#8, 0x6c#8, 0x6f#8]

/-- "The quick brown fox jumps over the lazy dog" (95_test_vectors.md 1.2). -/
def fox : List Byte :=
  [0x54#8, 0x68#8, 0x65#8, 0x20#8, 0x71#8, 0x75#8, 0x69#8, 0x63#8, 0x6b#8, 0x20#8, 0x62#8, 0x72#8, 0x6f#8, 0x77#8, 0x6e#8] ++
  [0x20#8, 0x66#8, 0x6f#8, 0x78#8, 0x20#8, 0x6a#8, 0x75#8, 0x6d#8, 0x70#8, 0x73#8, 0x20#8, 0x6f#8, 0x76#8, 0x65#8, 0x72#8] ++
  [0x20#8, 0x74#8, 0x68#8, 0x65#8, 0x20#8, 0x6c#8, 0x61#8, 0x7a#8, 0x79#8, 0x20#8, 0x64#8, 0x6f#8, 0x67#8]

/-! hash32, 95_test_vectors.md 1.2, 2.2 and 2.3: each tail length, no block, one block, ten blocks, seeds. -/

theorem test_hash_hello : hash32 hello 0#32 = 0x248bfa47#32 ∧ hash32 hello 0xfffffffe#32 = 0x1af3c655#32 := by decide
theorem test_hash_tail_one : hash32 [0x61#8, 0x62#8, 0x63#8, 0x64#8, 0x65#8] 0#32 = 0xe89b9af6#32 := by decide
theorem test_hash_tail_two : hash32 [0x21#8, 0x43#8] 0#32 = 0xa0f7b07a#32 := by decide
theorem test_hash_tail_three : hash32 [0x61#8, 0x62#8, 0x63#8] 1#32 = 0xaa75e9ff#32 := by decide
theorem test_hash_tail_none : hash32 [0xff#8, 0xff#8, 0xff#8, 0xff#8] 0#32 = 0x76293b50#32 := by decide
theorem test_hash_empty : hash32 [] 0#32 = 0#32 ∧ hash32 [] 1#32 = 0x514e28b7#32 := by decide
theorem test_hash_fox : hash32 fox 0x9747b28c#32 = 0x2fa826cd#32 := by decide +kernel
theorem test_stream_hello : streamFinish (hello.foldl streamAppend (streamStart 1#32)) = 0xbb4abcad#32 := by decide

/-! The address decoder, 95_test_vectors.md 2.5. -/

theorem test_lane_seed_wraps : laneSeed 0xfffffffe#32 2 = 0#32 := by decide
theorem test_bitIndex_smallest_and_largest :
    bitIndex 0xffffffff#32 1#32 = 7#32 ∧ bitIndex 0xffffffff#32 0xffffffff#32 = 0xffffffff#32 := by decide
theorem test_bitIndex_three_bytes :
    bitIndex 0x12345678#32 3#32 = 0#32 ∧ bitIndex 0x80000000#32 0x10000000#32 = 0#32 := by decide
theorem test_index_position : bucketIndex 0x47#32 = 8#29 ∧ bucketPosition 0x47#32 = 7#3 := by decide
theorem test_buckets_hello : buckets 3 16 hello = [(8, 7), (5, 5), (15, 5)] := by decide

/-! Commands on an engine of 32 lanes, 95_test_vectors.md 2.7. -/

/-- An engine in ABSORB with three lanes, size 16 and the key "hello". -/
def absorbing : Engine 32 :=
  { Engine.reset 32 with phase := .absorb, actK := 3#32, actSize := 16#32, key := hello }

/-- The same with the error ERR_SEQ. -/
def poisonedEngine : Engine 32 := { absorbing with errcode := .seq }

theorem test_start_legal_edge :
    ((Engine.reset 32).start 32#32 1#32 5#32).statusIdle = 0x00000002#32 ∧
    ((Engine.reset 32).start 32#32 1#32 5#32).actSeed = 5#32 := by decide
theorem test_start_checks_k_first :
    ((Engine.reset 32).start 0#32 0#32 0#32).statusIdle = 0x00000040#32 ∧
    ((Engine.reset 32).start 33#32 1#32 0#32).statusIdle = 0x00000040#32 ∧
    ((Engine.reset 32).start 2#32 0#32 0#32).statusIdle = 0x00000050#32 := by decide
theorem test_push_byte_order : (absorbing.push 1#2 0xddccbbaa#32).key = hello ++ [0xaa#8, 0xbb#8] := by decide
theorem test_push_outside_absorb : ((Engine.reset 32).push 0#2 0x41#32).statusIdle = 0x00000030#32 := by decide
theorem test_finish_lanes :
    absorbing.finish.statusIdle = 0x00000004#32 ∧ absorbing.finish.digest[2] = 0xe12f127d#32 ∧
    absorbing.finish.bitidx[1] = 0x2d#32 ∧ absorbing.finish.digest[3] = 0#32 := by decide
theorem test_finish_twice : absorbing.finish.finish.statusIdle = 0x00000034#32 := by decide
theorem test_poisoned_start_skipped : poisonedEngine.start 1#32 1#32 0#32 = poisonedEngine := by decide
theorem test_abort_clears : poisonedEngine.recover = Engine.reset 32 := by decide

/-! Issue and the port, 42_commands.md R140 and 20_memory.md R51, R63. -/

theorem test_issue_latches : ((Engine.reset 32).issue 0x00000001#32).pending = some (.start 1#32 1#32 0#32) := by decide
theorem test_issue_illegal :
    ((Engine.reset 32).issue 0x00000005#32).statusIdle = 0x00000020#32 ∧
    ((Engine.reset 32).issue 0x00000005#32).pending = none := by decide
theorem test_register_map :
    regAt 32 0x47C#12 = .digest 31 ∧ regAt 32 0x480#12 = .reserved ∧ regAt 32 0x808#12 = .bitidx 2 ∧
    regAt 32 0x01C#12 = .keylen ∧ regAt 32 0xC00#12 = .reserved := by decide +kernel
theorem test_read_results :
    absorbing.finish.regRead 0#32 0x404#12 = 0xbb4abcad#32 ∧ absorbing.finish.regRead 0#32 0x800#12 = 0x47#32 ∧
    absorbing.regRead 0#32 0x01C#12 = 5#32 ∧ absorbing.regRead 0#32 0x008#12 = 32#32 := by decide
theorem test_read_busy :
    { absorbing with pending := some .nop }.regRead 0xABCD0123#32 0x01C#12 = 0xABCD0123#32 ∧
    { absorbing with pending := some .nop }.regRead 0xFFFFFFFE#32 0x004#12 = 0xFFFFFFFD#32 := by decide
theorem test_write_read_only : absorbing.regWrite 0x01C#12 7#32 = absorbing := by decide

/-! Steps of the machine. -/

theorem test_first_step_runs_start :
    ∃ t, step (State.reset.withFetchWord 32 0x00000001) = .next t ∧ t.pending = none := ⟨_, rfl, rfl⟩
theorem test_first_step_runs_push :
    ∃ t, step (State.reset.withFetchWord 32 0x00000012) = .next t ∧ t.errcode = .seq := ⟨_, rfl, rfl⟩
theorem test_step_refuses_narrow :
    step { State.reset with schedule := [.host (.read .bits8 0x000#12)] } = .refused .unsupportedWidth := by rfl
theorem test_step_reset_discards :
    ∃ t, step { State.reset with schedule := [.reset], pending := some .nop, cfgK := 9#32 } = .next t ∧
      t.pending = none ∧ t.cfgK = 1#32 := ⟨_, rfl, rfl, rfl⟩

/-! Scripts, 30_encoding.md R80. -/

theorem test_pushKey_lines :
    pushKeyLines hello =
      [.write 0x018#12 0x6c6c6568#32, .command (.push 3#2), .poll 0x004#12 1#32 0#32,
       .write 0x018#12 0x0000006f#32, .command (.push 0#2), .poll 0x004#12 1#32 0#32] := by decide
theorem test_mnemonic : (Instr.push 3#2).mnemonic = "PUSH.4" := by decide
theorem test_check : checkPasses absorbing.finish.statusIdle = true := by decide

/-! Witnesses: for every statement with hypotheses (Certificates/Slice0/Obligations.lean), concrete values that meet all of
them together, for each clause at a boundary of its range. K_MAX is not known here: 1 ≤ K_MAX ≤ 256. -/

/-- Reset, with one host write waiting. -/
def writing (off : Offset) (v : Word) : State := { State.reset with schedule := [.host (.write .bits32 off v)] }

/-- Reset, with one host read waiting. -/
def reading (off : Offset) : State := { State.reset with schedule := [.host (.read .bits32 off)] }

/-- Reset, with a command pending and the engine to move. -/
def pendingState (c : Command) : State := { State.reset with pending := some c }

/-- ABSORB with one lane, size 1 and the key `key`, with a command pending. -/
def absorbingState (key : List Byte) (c : Command) : State :=
  { State.reset with phase := .absorb, actK := 1#32, actSize := 1#32, key := key, pending := some c }

/-- A state with the error ERR_SEQ, with a command pending. -/
def poisonedState (c : Command) : State := { pendingState c with errcode := .seq }

theorem witness_DecoderFollowsLegality :
    legal 0x5#32 = false ∧ legal 0x0#32 = true ∧ legal 0x1#32 = true ∧ legal 0x2#32 = true ∧ legal 0x32#32 = true ∧
    legal 0x3#32 = true ∧ legal 0x4#32 = true := by decide
theorem witness_IllegalWordsAreDropped :
    ∃ r, decode 0xF#32 = .error r ∧ (writing 0 0xF#32).schedule = [.host (.write .bits32 0x000#12 0xF#32)] ∧
      (writing 0 0xF#32).pending = none := ⟨_, rfl, rfl, rfl⟩
theorem witness_FinalizerValues :
    0x0b9a9c48#32 = 0x0b9a97d2#32 ^^^ 0x0b9a97d2#32 >>> 16 ∧ 0xb7082218#32 = 0x0b9a9c48#32 * 0x85ebca6b#32 ∧
    0xb70d9a59#32 = 0xb7082218#32 ^^^ 0xb7082218#32 >>> 13 ∧ 0xe89b726d#32 = 0xb70d9a59#32 * 0xc2b2ae35#32 := by decide
theorem witness_BodyTakesChunksInOrder :
    (hello.take 3).length < 4 ∧ (hello.take 4).length % 4 = 0 ∧ ([] : List Byte).length % 4 = 0 := by decide
theorem witness_TailIsLittleEndian : (hello.take 4).length % 4 = 0 := by decide
theorem witness_HashOfChunksAndTail : ([] : List Byte).length % 4 = 0 ∧ (fox.take 40).length % 4 = 0 := by decide
theorem witness_ReductionModuloBits :
    1#32 ≠ 0#32 ∧ (7#32).toNat < 8 * (1#32).toNat ∧ 2 ^ 29 ≤ (0x20000000#32).toNat := by decide
theorem witness_IndexAndPositionInRange : 0xffffffff#32 ≠ 0#32 := by decide
theorem witness_PassesCountRounds :
    ∃ e : Engine Config.kMax, 0 < Config.kMax ∧ e.actSeed = BitVec.ofNat 32 (1 * Config.kMax) ∧ 0 < e.actK.toNat ∧
      e.actSize ≠ 0#32 :=
  ⟨{ Engine.reset Config.kMax with actSeed := BitVec.ofNat 32 (1 * Config.kMax), actK := 1#32, actSize := 1#32 },
    kMax_pos, rfl, by decide, by decide⟩
theorem witness_NopOnlyClearsBusy :
    (pendingState .nop).pending = some .nop ∧ (pendingState .nop).engineMoves ∧
    ({ pendingState .nop with schedule := [.engine, .reset] } : State).pending = some .nop ∧
    ({ pendingState .nop with schedule := [.engine, .reset] } : State).engineMoves := ⟨rfl, .inl rfl, rfl, .inr rfl⟩
theorem witness_StartBeginsKeyOrRecordsError_poisoned :
    (poisonedState (.start 1 1 0)).pending = some (.start 1 1 0) ∧ (poisonedState (.start 1 1 0)).errcode ≠ .noError :=
  ⟨rfl, by decide⟩
theorem witness_StartBeginsKeyOrRecordsError_k :
    (pendingState (.start 0 1 0)).errcode = .noError ∧
    ∃ k : Word, Config.kMax < k.toNat ∧ k.toNat ≤ Config.kMax + 1 :=
  ⟨rfl, BitVec.ofNat 32 (Config.kMax + 1), by have := kMax_le; simp; omega, by have := kMax_le; simp; omega⟩
theorem witness_StartBeginsKeyOrRecordsError_legal :
    (pendingState (.start 1 0 0)).errcode = .noError ∧ (1#32 : Word) ≠ 0#32 ∧ (1#32).toNat ≤ Config.kMax ∧
    ∃ k : Word, k ≠ 0#32 ∧ k.toNat = Config.kMax :=
  ⟨rfl, by decide, kMax_pos, BitVec.ofNat 32 Config.kMax,
    fun h => by have := kMax_le; have := kMax_pos; have h := congrArg BitVec.toNat h; simp at h; omega,
    by have := kMax_le; simp; omega⟩
theorem witness_PushAppendsOrRecordsError_stops :
    (poisonedState (.push 0 0)).errcode ≠ .noError ∧ (pendingState (.push 0 0)).phase ≠ .absorb ∧
    (pendingState (.push 0 0)).errcode = .noError := ⟨by decide, by decide, rfl⟩
theorem witness_PushAppendsOrRecordsError_tooLong :
    ∃ s : State, s.pending = some (.push 1 0) ∧ s.errcode = .noError ∧ s.phase = .absorb ∧
      2 ^ 32 - 1 < s.key.length + ((1#2).toNat + 1) ∧ s.key.length + ((0#2).toNat + 1) ≤ 2 ^ 32 - 1 :=
  ⟨absorbingState (List.replicate (2 ^ 32 - 2) 0#8) (.push 1 0), rfl, rfl, rfl,
    by rw [show (absorbingState (List.replicate (2 ^ 32 - 2) 0#8) (.push 1 0)).key.length = 2 ^ 32 - 2 from
      List.length_replicate]; decide,
    by rw [show (absorbingState (List.replicate (2 ^ 32 - 2) 0#8) (.push 1 0)).key.length = 2 ^ 32 - 2 from
      List.length_replicate]; decide⟩
theorem witness_FinishHashesActiveLanes :
    (poisonedState .finish).errcode ≠ .noError ∧ (pendingState .finish).phase ≠ .absorb ∧
    (absorbingState hello .finish).errcode = .noError ∧ (absorbingState hello .finish).phase = .absorb ∧
    0 < Config.kMax ∧ 0 < (absorbingState hello .finish).actK.toNat ∧ (pendingState .finish).actK.toNat ≤ 0 ∧
    (absorbingState hello .finish).actSize ≠ 0#32 :=
  ⟨by decide, by decide, rfl, rfl, kMax_pos, by decide, by decide, by decide⟩
theorem witness_PoisonSkipsCommands :
    (poisonedState .abort).errcode ≠ .noError ∧ Instr.finish ≠ .nop ∧ Instr.finish ≠ .abort ∧
    (∃ t, step (poisonedState .abort) = .next t ∧ t.errcode = .noError) ∧
    (∃ t, step { poisonedState .nop with schedule := [.reset] } = .next t ∧ t.errcode = .noError) :=
  ⟨by decide, by decide, by decide, ⟨_, rfl, rfl⟩, ⟨_, rfl, rfl⟩⟩
theorem witness_CommandsLeaveTheRest :
    (∃ t, exec .nop (pendingState .nop) = .next t) ∧ (∃ t, exec .finish (absorbingState hello .finish) = .next t) :=
  ⟨⟨_, rfl⟩, ⟨_, rfl⟩⟩
theorem witness_BusyWriteIsDropped :
    ({ writing 0 5#32 with pending := some .abort } : State).pending = some .abort ∧
    ({ writing 0 5#32 with pending := some .abort } : State).schedule = [.host (.write .bits32 0x000#12 5#32)] :=
  ⟨rfl, rfl⟩
theorem witness_IssueLatchesOperands :
    decode 0x1#32 = .ok .start ∧ (writing 0 0x1#32).schedule = [.host (.write .bits32 0x000#12 0x1#32)] ∧
    (writing 0 0x1#32).pending = none ∧ (0x00C#12 : Offset) ≠ 0x000#12 ∧ ∃ t, step (writing 0x00C 9#32) = .next t :=
  ⟨rfl, rfl, rfl, by decide, _, rfl⟩
theorem witness_EngineStepRunsPending :
    (∃ t, exec (Command.nop).instr (pendingState .nop) = .next t) ∧ (pendingState .nop).schedule = [] ∧
    ({ pendingState .nop with schedule := [.engine] } : State).schedule = .engine :: [] ∧
    State.reset.pending = none ∧ State.reset.schedule = [] ∧
    ({ State.reset with schedule := [.engine] } : State).pending = none := ⟨⟨_, rfl⟩, rfl, rfl, rfl, rfl, rfl⟩
theorem witness_IssuedWordRunsOnNextTurn :
    decode 0x32#32 = .ok (.push 3) ∧
    ∃ s : State, s.pending = none ∧ s.schedule = .host (.write .bits32 0x000#12 0x32#32) :: .engine :: [] :=
  ⟨rfl, { State.reset with schedule := [.host (.write .bits32 0x000#12 0x32#32), .engine] }, rfl, rfl⟩
theorem witness_PlacedWordRunsAtOnce :
    4 < 2 ^ 32 ∧ decode (BitVec.ofNat 32 4) = .ok .abort ∧ State.reset.schedule = [] := ⟨by decide, rfl, rfl⟩
theorem witness_StagingCommutesWithEngineStep : (pendingState (.push 3 7)).pending = some (.push 3 7) := rfl
theorem witness_UnwaitedWriteHasTwoOutcomes :
    decode 0x1#32 = .ok .start ∧ decode 0x4#32 = .ok .abort ∧ State.reset.pending = none ∧
    State.reset.errcode = .noError := ⟨rfl, rfl, rfl, rfl⟩
theorem witness_AdmittedRunEndsWithNothingPending : (reading 0xFFC#12).safe := by
  intro ev h
  simp only [reading, List.mem_cons, List.not_mem_nil, or_false] at h
  subst h
  decide
theorem witness_OnlyBadTransactionsAreRefused :
    (Transaction.read .bits64 0#12).width ≠ .bits32 ∧
    ((Transaction.write .bits8 1#12 0#32).width ≠ .bits32 ∧ (Transaction.write .bits8 1#12 0#32).off.toNat % 4 ≠ 0) ∧
    (Transaction.read .bits32 0xFFF#12).off.toNat % 4 ≠ 0 ∧
    (Transaction.read .bits32 0xFFC#12).width = .bits32 ∧ (Transaction.read .bits32 0xFFC#12).off.toNat % 4 = 0 := by decide
theorem witness_WriteStoresOrIsIgnored :
    (0x01C#12 : Offset).toNat % 4 = 0 ∧ (0xFFC#12 : Offset).toNat % 4 = 0 ∧
    (writing 0x01C#12 3#32).schedule = [.host (.write .bits32 0x01C#12 3#32)] ∧
    (0x01C#12 : Offset) ≠ 0x000#12 ∧ (0x01C#12 : Offset) ≠ 0x018#12 := ⟨by decide, by decide, rfl, by decide, by decide⟩
theorem witness_ReadReturnsRegisterOrDraw :
    (reading 0x400#12).schedule = [.host (.read .bits32 (BitVec.ofNat 12 (0x400 + 4 * 0)))] ∧ 0 < Config.kMax ∧
    (0x02C ≤ (0x02C#12 : Offset).toNat ∧ (0x3FC#12 : Offset).toNat ≤ 0x3FC ∧ 0xC00 ≤ (0xC00#12 : Offset).toNat) ∧
    (Config.kMax < 256 → 0x400 + 4 * Config.kMax ≤ (0x7FC#12 : Offset).toNat ∧
      0x800 + 4 * Config.kMax ≤ (0xBFC#12 : Offset).toNat) :=
  ⟨rfl, kMax_pos, by decide, fun h => by simp; omega⟩
theorem witness_StatusFields :
    (pendingState .nop).toEngine.pending ≠ none ∧ State.reset.toEngine.pending = none := ⟨by decide, rfl⟩
theorem witness_FirstErrorSticks :
    (poisonedState .nop).errcode ≠ .noError ∧ (pendingState .nop).errcode = .noError ∧
    ∃ t, step (poisonedState .nop) = .next t := ⟨by decide, rfl, _, rfl⟩
theorem witness_ErrorsHaveTheirCauses :
    (pendingState .finish).errcode = .noError ∧ ∃ t, step (pendingState .finish) = .next t ∧ t.errcode = .seq :=
  ⟨rfl, _, rfl, rfl⟩
theorem witness_ErrorsArePrecise :
    (∃ t, step (pendingState .finish) = .next t ∧ t.errcode ≠ (pendingState .finish).errcode ∧ t.errcode ≠ .noError) ∧
    (pendingState .finish).engineMoves ∧
    (∃ t, step (writing 0 0x5#32) = .next t ∧ t.errcode ≠ (writing 0 0x5#32).errcode ∧ t.errcode ≠ .noError) ∧
    ¬ (writing 0 0x5#32).engineMoves ∧ (poisonedState .finish).engineMoves ∧ (poisonedState .finish).errcode ≠ .noError :=
  ⟨⟨_, rfl, by decide, by decide⟩, .inl rfl, ⟨_, rfl, by decide, by decide⟩, by simp [State.engineMoves, writing], .inl rfl,
    by decide⟩
theorem witness_PhaseWrittenByFewEvents :
    ∃ t, step (absorbingState hello .finish) = .next t ∧ t.phase ≠ (absorbingState hello .finish).phase :=
  ⟨_, rfl, by decide⟩
theorem witness_HostAndEngineOwnTheirRegisters :
    (∃ t, step (writing 0x018#12 1#32) = .next t) ∧
    (∃ t, step (writing 0x000#12 1#32) = .next t ∧ t.pending ≠ (writing 0x000#12 1#32).pending) ∧
    (writing 0x018#12 1#32).schedule = [.host (.write .bits32 0x018#12 1#32)] ∧ (pendingState .abort).engineMoves ∧
    ∃ t, step (pendingState .abort) = .next t := ⟨⟨_, rfl⟩, ⟨_, rfl, by simp [writing, State.reset, Engine.reset]; decide⟩, rfl,
    .inl rfl, _, rfl⟩
theorem witness_ResetEventRestoresEverything :
    ({ absorbingState hello .finish with schedule := [.reset] } : State).schedule = .reset :: [] := rfl
theorem reset_inv : State.reset.toEngine.Inv where
  idle _ := ⟨rfl, rfl, rfl, rfl, fun i h => by simp [State.reset]⟩
  operands h := absurd rfl h
  absorb h := by cases h
  inactive i h _ := by simp [State.reset]
  inRange h := by cases h
  keyLength := by simp [State.reset]
theorem witness_StepKeepsInvariants : State.reset.toEngine.Inv ∧ ∃ t, step State.reset = .next t := ⟨reset_inv, _, rfl⟩

/-- DONE with one lane, size 1 and the empty key: a state with results. -/
def doneState : State := { State.reset with
  phase := .done, actK := 1#32, actSize := 1#32, schedule := [.host (.read .bits32 0x004#12)] }

theorem lane_zero_of_done (i : Nat) (h : i < doneState.actK.toNat) : i = 0 := by
  have : doneState.actK.toNat = 1 := rfl
  omega
theorem witness_StatusFourMeansValidResults :
    doneState.toEngine.Inv ∧ doneState.toEngine.ResultsOfKey ∧ doneState.pending = none ∧
    doneState.schedule = [.host (.read .bits32 0x004#12)] ∧
    ∃ t, step doneState = .next t ∧ t.readData = some 0x00000004#32 :=
  ⟨{ idle := fun h => (by cases h)
     operands := fun _ => ⟨by decide, kMax_pos, by decide⟩
     absorb := fun h => (by cases h)
     inactive := fun i h _ => by simp [doneState, State.reset]
     inRange := fun _ i h _ => by simp [doneState, State.reset]
     keyLength := by simp [doneState, State.reset] },
   fun _ i h h' => by
     have h0 := lane_zero_of_done i h'
     subst h0
     exact ⟨by simp [doneState, State.reset]; decide, by simp [doneState, State.reset]; decide⟩,
   rfl, rfl, _, rfl, by decide⟩
theorem witness_StepKeepsResultsOfKey :
    doneState.phase = .done ∧ doneState.toEngine.ResultsOfKey ∧ ∃ t, step doneState = .next t :=
  ⟨rfl, witness_StatusFourMeansValidResults.2.1, _, rfl⟩
theorem witness_CommandsComputeBuckets :
    State.reset.errcode = .noError ∧ (1#32 : Word) ≠ 0#32 ∧ (1#32).toNat ≤ Config.kMax ∧
    hello = [((3#2 : BitVec 2), (0x6c6c6568#32 : Word)), (0#2, 0x0000006f#32)].flatMap
      (fun p => (List.range (p.1.toNat + 1)).map fun j => p.2.extractLsb' (8 * j) 8) ∧
    hello.length ≤ 2 ^ 32 - 1 := ⟨rfl, by decide, kMax_pos, by decide, by decide⟩
theorem witness_ResetConfigurationHashes :
    ([] : List Byte) = ([] : List (BitVec 2 × Word)).flatMap
      (fun p => (List.range (p.1.toNat + 1)).map fun j => p.2.extractLsb' (8 * j) 8) ∧
    ([] : List Byte).length ≤ 2 ^ 32 - 1 ∧ 0 < Config.kMax := ⟨rfl, by decide, kMax_pos⟩
theorem witness_PushKeyAppendsTheBytes :
    ({ absorbingState hello .nop with pending := none } : State).pending = none ∧
    (absorbingState hello .nop).errcode = .noError ∧ (absorbingState hello .nop).phase = .absorb ∧
    (absorbingState hello .nop).key.length + hello.length ≤ 2 ^ 32 - 1 ∧
    ∃ (turns : List Turn) (r : HostRun), Turn.reset ∉ turns ∧
      takeTurns turns ⟨{ absorbingState hello .nop with pending := none }, pushKeyLines [0x21#8], []⟩ = .next r ∧
      r.ended = true :=
  ⟨rfl, rfl, rfl, by decide, [.host, .host, .engine, .host], _, by decide, rfl, by decide⟩
theorem witness_HashKeyUnderEverySchedule :
    ∃ (turns : List Turn) (r : HostRun), Turn.reset ∉ turns ∧
      takeTurns turns ⟨State.reset, hashKeyLines [] 1#32 1#32 0#32, []⟩ = .next r ∧ r.ended = true :=
  ⟨[.host, .host, .host, .host, .engine, .host, .host, .engine, .host], _, by decide, rfl, by decide⟩

end Sys2Proof.Tests
end

section
/-! The bus window: BASE, and the offset of a bus address (00_scope.md R5, 20_memory.md R52, R65). -/

namespace Sys2Proof.Machine

/-- BASE is aligned to the 4 KiB window (00_scope.md R5). -/
theorem base_mod_window : Config.base % 4096 = 0 := Nat.mul_mod_right 4096 Config.window

/-- `busOffset` answers an offset exactly at that offset's bus address (20_memory.md R52). -/
theorem busOffset_eq_some_iff (addr : Nat) (off : Offset) :
    busOffset addr = some off ↔ addr = busAddress off := by
  have hoff : off.toNat < 4096 := off.isLt
  unfold busOffset busAddress
  split
  case isTrue inside =>
    rw [Option.some_inj, ← BitVec.toNat_inj, BitVec.toNat_ofNat]
    omega
  case isFalse outside =>
    have hne : addr ≠ Config.base + off.toNat := by omega
    simp [hne]

/-- `busOffset` answers nothing exactly outside the window (20_memory.md R52). -/
theorem busOffset_eq_none_iff (addr : Nat) :
    busOffset addr = none ↔ addr < Config.base ∨ Config.base + 0xFFF < addr := by
  rw [busOffset, ite_eq_right_iff]
  simp only [reduceCtorEq, imp_false]
  omega

end Sys2Proof.Machine

namespace Sys2Proof

/-- Settles O35: the ranges hold by how K_MAX and BASE are drawn, the window by the two laws of `busOffset`. -/
theorem windowAddresses : Obligations.WindowAddresses :=
  ⟨Machine.base_mod_window, Machine.kMax_pos, Machine.kMax_le, Machine.busOffset_eq_some_iff,
    Machine.busOffset_eq_none_iff⟩

end Sys2Proof
end

section
/-! What each command and each register write can write: every other element keeps its value (10_state.md R21, 42_commands.md
R152). -/

namespace Sys2Proof.Machine

namespace Engine

variable {K : Nat}

/-- START writes no host-owned register and not PENDING (42_commands.md R145). -/
theorem start_writes (k size seed : Word) (e : Engine K) :
    ∃ key actK actSize actSeed digest bitidx phase code, e.start k size seed =
      { e with key := key, actK := actK, actSize := actSize, actSeed := actSeed, digest := digest, bitidx := bitidx,
               phase := phase, errcode := code } := by
  obtain ⟨-, h⟩ | ⟨-, -, h⟩ | ⟨-, -, -, -, h⟩ | ⟨-, -, -, -, h⟩ := start_cases k size seed e <;>
    exact ⟨_, _, _, _, _, _, _, _, h⟩

/-- PUSH writes KEY and ERRCODE alone (42_commands.md R146). -/
theorem push_writes (cnt : BitVec 2) (data : Word) (e : Engine K) :
    ∃ key code, e.push cnt data = { e with key := key, errcode := code } := by
  obtain ⟨-, h⟩ | ⟨-, -, h⟩ | ⟨-, -, -, h⟩ | ⟨-, -, -, h⟩ := push_cases cnt data e <;> exact ⟨_, _, h⟩

/-- FINISH writes the lanes, PHASE and ERRCODE alone (42_commands.md R147). -/
theorem finish_writes (e : Engine K) :
    ∃ digest bitidx phase code, e.finish =
      { e with digest := digest, bitidx := bitidx, phase := phase, errcode := code } := by
  obtain ⟨-, h⟩ | ⟨-, -, h⟩ | ⟨-, -, h⟩ := finish_cases e <;> exact ⟨_, _, _, _, h⟩

/-- No command writes a host-owned register or PENDING (10_state.md R21). -/
theorem execute_writes (c : Command) (e : Engine K) :
    ∃ key actK actSize actSeed digest bitidx phase code, e.execute c =
      { e with key := key, actK := actK, actSize := actSize, actSeed := actSeed, digest := digest, bitidx := bitidx,
               phase := phase, errcode := code } := by
  cases c with
  | nop => exact ⟨_, _, _, _, _, _, _, _, rfl⟩
  | start k size seed => exact start_writes k size seed e
  | push cnt data =>
    obtain ⟨_, _, h⟩ := push_writes cnt data e
    exact ⟨_, _, _, _, _, _, _, _, h⟩
  | finish =>
    obtain ⟨_, _, _, _, h⟩ := finish_writes e
    exact ⟨_, _, _, _, _, _, _, _, h⟩
  | abort => exact ⟨_, _, _, _, _, _, _, _, rfl⟩

/-- Only START and ABORT write ACT_K, ACT_SIZE and ACT_SEED. -/
theorem execute_operands {c : Command} (e : Engine K) (notStart : c.instr ≠ .start) (notAbort : c.instr ≠ .abort) :
    (e.execute c).actK = e.actK ∧ (e.execute c).actSize = e.actSize ∧ (e.execute c).actSeed = e.actSeed := by
  cases c with
  | nop => exact ⟨rfl, rfl, rfl⟩
  | start k size seed => exact absurd rfl notStart
  | push cnt data => obtain ⟨_, _, h⟩ := push_writes cnt data e; simp [execute, h]
  | finish => obtain ⟨_, _, _, _, h⟩ := finish_writes e; simp [execute, h]
  | abort => exact absurd rfl notAbort

/-- Only START, PUSH and ABORT write KEY. -/
theorem execute_key {c : Command} (e : Engine K) (notStart : c.instr ≠ .start) (notAbort : c.instr ≠ .abort)
    (notPush : ∀ cnt, c.instr ≠ .push cnt) : (e.execute c).key = e.key := by
  cases c with
  | nop => rfl
  | start k size seed => exact absurd rfl notStart
  | push cnt data => exact absurd rfl (notPush cnt)
  | finish => obtain ⟨_, _, _, _, h⟩ := finish_writes e; simp [execute, h]
  | abort => exact absurd rfl notAbort

/-- Only START, FINISH and ABORT write the lanes and PHASE. -/
theorem execute_results {c : Command} (e : Engine K) (notStart : c.instr ≠ .start) (notAbort : c.instr ≠ .abort)
    (notFinish : c.instr ≠ .finish) :
    (e.execute c).digest = e.digest ∧ (e.execute c).bitidx = e.bitidx ∧ (e.execute c).phase = e.phase := by
  cases c with
  | nop => exact ⟨rfl, rfl, rfl⟩
  | start k size seed => exact absurd rfl notStart
  | push cnt data => obtain ⟨_, _, h⟩ := push_writes cnt data e; simp [execute, h]
  | finish => exact absurd rfl notFinish
  | abort => exact absurd rfl notAbort

/-- Recording an error writes ERRCODE alone (60_exceptions.md R161). -/
theorem recordErr_writes (c : ErrCode) (e : Engine K) : ∃ code, e.recordErr c = { e with errcode := code } := by
  by_cases h : e.errcode = .noError
  · exact ⟨_, recordErr_of_noError c h⟩
  · exact ⟨_, recordErr_of_error c h⟩

/-- An issue writes PENDING and ERRCODE alone (42_commands.md R140). -/
theorem issue_writes (e : Engine K) (w : Word) :
    ∃ pending code, e.issue w = { e with pending := pending, errcode := code } := by
  obtain ⟨-, h⟩ | ⟨-, -, h⟩ | ⟨_, -, -, h⟩ := issue_cases e w
  · obtain ⟨_, h'⟩ := recordErr_writes .busy e
    exact ⟨_, _, h.trans h'⟩
  · obtain ⟨_, h'⟩ := recordErr_writes .illegal e
    exact ⟨_, _, h.trans h'⟩
  · exact ⟨_, _, h⟩

/-- A register write leaves the engine-owned elements but PENDING and ERRCODE (10_state.md R21). -/
theorem regWrite_writes (e : Engine K) (off : Offset) (v : Word) :
    ∃ cfgK cfgSize seed keydata pending code, e.regWrite off v =
      { e with cfgK := cfgK, cfgSize := cfgSize, seed := seed, keydata := keydata, pending := pending,
               errcode := code } := by
  obtain ⟨-, h⟩ | ⟨-, h⟩ | ⟨-, h⟩ | ⟨-, h⟩ | ⟨-, h⟩ | ⟨-, -, -, -, -, h⟩ := regWrite_cases e off v
  · obtain ⟨_, _, h'⟩ := issue_writes e v
    exact ⟨_, _, _, _, _, _, h.trans h'⟩
  all_goals exact ⟨_, _, _, _, _, _, h⟩

/-- A register write elsewhere than to CMD leaves PENDING and ERRCODE (20_memory.md R64). -/
theorem regWrite_of_ne_cmd (e : Engine K) {off : Offset} (v : Word) (h : off ≠ 0x000#12) :
    (e.regWrite off v).pending = e.pending ∧ (e.regWrite off v).errcode = e.errcode := by
  obtain ⟨hcmd, -⟩ | ⟨-, hw⟩ | ⟨-, hw⟩ | ⟨-, hw⟩ | ⟨-, hw⟩ | ⟨-, -, -, -, -, hw⟩ := regWrite_cases e off v
  · exact absurd hcmd h
  all_goals exact ⟨by rw [hw], by rw [hw]⟩

end Engine

/-- Every command, pending or not, has the effect of some latched form of it. -/
theorem exec_eq_execute (i : Instr) (s : State) :
    ∃ c : Command, c.instr = i ∧ exec i s = .next { s with toEngine := s.toEngine.execute c } := by
  cases i with
  | nop => exact ⟨.nop, rfl, rfl⟩
  | start => exact ⟨.start s.startOperands.1 s.startOperands.2.1 s.startOperands.2.2, rfl, rfl⟩
  | push cnt => exact ⟨.push cnt (s.pushData cnt), rfl, rfl⟩
  | finish => exact ⟨.finish, rfl, rfl⟩
  | abort => exact ⟨.abort, rfl, rfl⟩

/-- What a step did to the engine when the next event is the engine's turn. -/
theorem step_of_engineMoves {s t : State} (hm : s.engineMoves) (h : step s = .next t) :
    (s.pending = none ∧ t.toEngine = s.toEngine) ∨
    (∃ c, s.pending = some c ∧ t.toEngine = { s.toEngine.execute c with pending := none }) := by
  obtain ⟨-, hidle⟩ | ⟨-, hexec⟩ | ⟨-, hn, -⟩ | ⟨_, _, _, hn, -⟩ := step_engine h
  · exact .inl hidle
  · exact .inr hexec
  · exact absurd hm hn
  · exact absurd hm hn

/-- What a step did to the engine when the next event is a host's transaction. -/
theorem step_of_host {s t : State} {tr : Transaction} {rest : List Event} (hs : s.schedule = .host tr :: rest)
    (h : step s = .next t) :
    t.toEngine = s.toEngine ∨ ∃ off v, tr = .write .bits32 off v ∧ t.toEngine = s.toEngine.regWrite off v := by
  rw [step_event hs] at h
  obtain ⟨_, -, -, rfl⟩ | ⟨off, v, rfl, -, rfl⟩ := transact_cases h
  · exact .inl rfl
  · exact .inr ⟨off, v, rfl, rfl⟩

/-- A host's transaction leaves the engine-owned elements but PENDING and ERRCODE. -/
theorem step_host_writes {s t : State} {tr : Transaction} {rest : List Event} (hs : s.schedule = .host tr :: rest)
    (h : step s = .next t) :
    ∃ cfgK cfgSize seed keydata pending code, t.toEngine =
      { s.toEngine with cfgK := cfgK, cfgSize := cfgSize, seed := seed, keydata := keydata, pending := pending,
                        errcode := code } := by
  obtain he | ⟨off, v, -, he⟩ := step_of_host hs h
  · exact ⟨_, _, _, _, _, _, he⟩
  · rw [he]
    exact Engine.regWrite_writes s.toEngine off v

/-- A host's transaction that changes PENDING or ERRCODE is a write to CMD (42_commands.md R140). -/
theorem hostIssues_of_step_host {s t : State} {tr : Transaction} {rest : List Event}
    (hs : s.schedule = .host tr :: rest) (h : step s = .next t)
    (changed : t.pending ≠ s.pending ∨ t.errcode ≠ s.errcode) : ∃ w, s.hostIssues w := by
  obtain he | ⟨off, v, rfl, he⟩ := step_of_host hs h
  · simp [he] at changed
  · by_cases hcmd : off = 0x000#12
    · exact ⟨v, by simp [State.hostIssues, hs, hcmd]⟩
    · obtain ⟨hp, hc⟩ := s.toEngine.regWrite_of_ne_cmd v hcmd
      simp [he, hp, hc] at changed

/-- The engine's turn leaves the host-owned registers. -/
theorem step_engineMoves_writes {s t : State} (hm : s.engineMoves) (h : step s = .next t) :
    t.cfgK = s.cfgK ∧ t.cfgSize = s.cfgSize ∧ t.seed = s.seed ∧ t.keydata = s.keydata := by
  obtain ⟨-, he⟩ | ⟨c, -, he⟩ := step_of_engineMoves hm h
  · simp [he]
  · obtain ⟨_, _, _, _, _, _, _, _, hw⟩ := Engine.execute_writes c s.toEngine
    simp [he, hw]

end Sys2Proof.Machine

namespace Sys2Proof

open Machine

/-- Settles O22: an instruction acts as one of its latched forms (`exec_eq_execute`), and of those the frame of each is
known. -/
theorem commandsLeaveTheRest : Obligations.CommandsLeaveTheRest := by
  intro i s t h
  obtain ⟨c, rfl, hexec⟩ := exec_eq_execute i s
  obtain rfl : { s with toEngine := s.toEngine.execute c } = t := by simpa [hexec] using h
  refine ⟨?_, Engine.execute_operands s.toEngine, Engine.execute_key s.toEngine, Engine.execute_results s.toEngine, ?_⟩
  · obtain ⟨_, _, _, _, _, _, _, _, he⟩ := Engine.execute_writes c s.toEngine
    simp [he]
  · intro hnop
    cases c <;> cases hnop
    rfl

/-- Settles O40: by what a host's transaction and an engine's turn can write. -/
theorem hostAndEngineOwnTheirRegisters : Obligations.HostAndEngineOwnTheirRegisters := by
  intro s t h
  refine ⟨fun tr rest hs => ?_, fun hm => step_engineMoves_writes hm h⟩
  obtain ⟨_, _, _, _, _, _, he⟩ := step_host_writes hs h
  refine ⟨by rw [he], by rw [he], by rw [he], by rw [he], by rw [he], by rw [he], by rw [he], ?_⟩
  exact hostIssues_of_step_host hs h

end Sys2Proof
end

section
/-! PHASE and ERRCODE: which commands and which writes change them, and to what (10_state.md R29, R30). -/

namespace Sys2Proof.Machine

/-- A word is rejected exactly when it is not legal (30_encoding.md R73). -/
theorem decode_error_iff {w : Word} : (∃ r, decode w = .error r) ↔ legal w = false := by
  cases hl : legal w with
  | false => simp [decode, hl]
  | true =>
    simp only [decode, hl, if_true, Bool.true_eq_false, iff_false]
    rintro ⟨r, hr⟩
    repeat' split at hr
    all_goals cases hr

namespace Engine

variable {K : Nat}

/-- Only START, FINISH and ABORT change PHASE, each to one value (10_state.md R29). -/
theorem execute_phase {c : Command} {e : Engine K} (changed : (e.execute c).phase ≠ e.phase) :
    ((∃ k size seed, c = .start k size seed) ∧ (e.execute c).phase = .absorb) ∨
    (c = .finish ∧ (e.execute c).phase = .done) ∨ (c = .abort ∧ (e.execute c).phase = .idle) := by
  cases c with
  | nop => exact absurd rfl changed
  | start k size seed =>
    refine .inl ⟨⟨k, size, seed, rfl⟩, ?_⟩
    obtain ⟨-, h⟩ | ⟨-, -, h⟩ | ⟨-, -, -, -, h⟩ | ⟨-, -, -, -, h⟩ := start_cases k size seed e
    case inr.inr.inr => simp [execute, h]
    all_goals simp [execute, h] at changed
  | push cnt data =>
    obtain ⟨_, _, h⟩ := push_writes cnt data e
    simp [execute, h] at changed
  | finish =>
    refine .inr (.inl ⟨rfl, ?_⟩)
    obtain ⟨-, h⟩ | ⟨-, -, h⟩ | ⟨-, -, h⟩ := finish_cases e
    case inr.inr => simp [execute, h]
    all_goals simp [execute, h] at changed
  | abort => exact .inr (.inr ⟨rfl, rfl⟩)

/-- The error of an issue: busy first, then legality (60_exceptions.md R168). -/
theorem issue_errcode {e : Engine K} (h : e.errcode = .noError) (w : Word) :
    (e.issue w).errcode =
      if e.pending = none then (if legal w = false then .illegal else .noError) else .busy := by
  obtain ⟨hp, hi⟩ | ⟨hp, hd, hi⟩ | ⟨i, hp, hd, hi⟩ := issue_cases e w
  · rw [hi, recordErr_of_noError _ h, if_neg hp]
  · rw [hi, recordErr_of_noError _ h, if_pos hp, if_pos (decode_error_iff.mp hd)]
  · have hlegal : ¬ legal w = false := fun hl => by
      obtain ⟨_, hr⟩ := decode_error_iff.mpr hl
      cases hd.symm.trans hr
    rw [hi, if_pos hp, if_neg hlegal]
    exact h

/-- The error of START: `k` first, then `size` (60_exceptions.md R168). -/
theorem start_errcode {e : Engine K} (h : e.errcode = .noError) (k size seed : Word) :
    (e.start k size seed).errcode =
      if k = 0#32 ∨ K < k.toNat then .cfgK else if size = 0#32 then .cfgSize else .noError := by
  obtain ⟨he, -⟩ | ⟨-, hk, hs⟩ | ⟨-, hk, hK, hsize, hs⟩ | ⟨-, hk, hK, hsize, hs⟩ := start_cases k size seed e
  · exact absurd h he
  · simp [hs, hk]
  · subst hsize
    simp [hs, hk, Nat.not_lt.mpr hK]
  · simp [hs, hk, Nat.not_lt.mpr hK, hsize, h]

/-- The error of PUSH: the phase first, then the length (60_exceptions.md R168). -/
theorem push_errcode {e : Engine K} (h : e.errcode = .noError) (cnt : BitVec 2) (data : Word) :
    (e.push cnt data).errcode =
      if e.phase ≠ .absorb then .seq
      else if maxKeyLength < e.key.length + pushCount cnt then .len else .noError := by
  obtain ⟨he, -⟩ | ⟨-, hph, hs⟩ | ⟨-, hph, hlen, hs⟩ | ⟨-, hph, hlen, hs⟩ := push_cases cnt data e
  · exact absurd h he
  · simp [hs, hph]
  · simp [hs, hph, hlen]
  · simp [hs, hph, hlen, h]

/-- The error of FINISH. -/
theorem finish_errcode {e : Engine K} (h : e.errcode = .noError) :
    e.finish.errcode = if e.phase ≠ .absorb then .seq else .noError := by
  obtain ⟨he, -⟩ | ⟨-, hph, hs⟩ | ⟨-, hph, hs⟩ := finish_cases e
  · exact absurd h he
  · simp [hs, hph]
  · simp [hs, hph, h]

/-- ERR_BUSY is recorded by an issue to a busy engine (60_exceptions.md R162). -/
theorem issue_busy_iff {e : Engine K} (h : e.errcode = .noError) (w : Word) :
    (e.issue w).errcode = .busy ↔ e.pending ≠ none := by
  rw [issue_errcode h]
  (repeat' split) <;> simp_all

/-- ERR_ILLEGAL is recorded by an issue of an illegal word to a free engine (60_exceptions.md R163). -/
theorem issue_illegal_iff {e : Engine K} (h : e.errcode = .noError) (w : Word) :
    (e.issue w).errcode = .illegal ↔ e.pending = none ∧ legal w = false := by
  rw [issue_errcode h]
  (repeat' split) <;> simp_all

/-- An issue records no other error. -/
theorem issue_errcode_mem {e : Engine K} (h : e.errcode = .noError) (w : Word) :
    (e.issue w).errcode ∈ [.noError, .busy, .illegal] := by
  rw [issue_errcode h]
  (repeat' split) <;> simp

/-- No command records ERR_BUSY or ERR_ILLEGAL: they are errors of an issue. -/
theorem execute_errcode_notMem {e : Engine K} (h : e.errcode = .noError) (c : Command) :
    (e.execute c).errcode ∉ [.busy, .illegal] := by
  cases c with
  | nop => simp [execute, h]
  | start k size seed =>
    simp only [execute, start_errcode h]
    (repeat' split) <;> simp
  | push cnt data =>
    simp only [execute, push_errcode h]
    (repeat' split) <;> simp
  | finish =>
    simp only [execute, finish_errcode h]
    (repeat' split) <;> simp
  | abort => simp [execute]

/-- ERR_SEQ is recorded by PUSH and FINISH outside ABSORB (60_exceptions.md R164). -/
theorem execute_seq_iff {e : Engine K} (h : e.errcode = .noError) (c : Command) :
    (e.execute c).errcode = .seq ↔
      e.phase ≠ .absorb ∧ (c = .finish ∨ ∃ cnt data, c = .push cnt data) := by
  cases c with
  | nop => simp [execute, h]
  | start k size seed =>
    simp only [execute, start_errcode h]
    (repeat' split) <;> simp
  | push cnt data =>
    simp only [execute, push_errcode h]
    (repeat' split) <;> simp_all
  | finish => simp [execute, finish_errcode h]
  | abort => simp [execute]

/-- ERR_CFG_K is recorded by START with an illegal `k`. -/
theorem execute_cfgK_iff {e : Engine K} (h : e.errcode = .noError) (c : Command) :
    (e.execute c).errcode = .cfgK ↔
      ∃ k size seed, c = .start k size seed ∧ (k = 0#32 ∨ K < k.toNat) := by
  cases c with
  | nop => simp [execute, h]
  | start k size seed =>
    simp only [execute, start_errcode h]
    (repeat' split) <;> simp_all
  | push cnt data =>
    simp only [execute, push_errcode h]
    (repeat' split) <;> simp
  | finish =>
    simp only [execute, finish_errcode h]
    (repeat' split) <;> simp
  | abort => simp [execute]

/-- ERR_CFG_SIZE is recorded by START with a legal `k` and the size 0. -/
theorem execute_cfgSize_iff {e : Engine K} (h : e.errcode = .noError) (c : Command) :
    (e.execute c).errcode = .cfgSize ↔
      ∃ k size seed, c = .start k size seed ∧ k ≠ 0#32 ∧ k.toNat ≤ K ∧ size = 0#32 := by
  cases c with
  | nop => simp [execute, h]
  | start k size seed =>
    simp only [execute, start_errcode h]
    split
    next hk =>
      simp only [reduceCtorEq, false_iff]
      rintro ⟨_, _, _, ⟨⟩, hk0, hK, -⟩
      exact hk.elim hk0 (Nat.not_lt.mpr hK)
    next hk =>
      obtain ⟨hk0, hK⟩ := not_or.mp hk
      split
      next hsize => exact ⟨fun _ => ⟨k, size, seed, rfl, hk0, Nat.not_lt.mp hK, hsize⟩, fun _ => rfl⟩
      next hsize =>
        simp only [reduceCtorEq, false_iff]
        rintro ⟨_, _, _, ⟨⟩, -, -, hsize0⟩
        exact hsize hsize0
  | push cnt data =>
    simp only [execute, push_errcode h]
    (repeat' split) <;> simp
  | finish =>
    simp only [execute, finish_errcode h]
    (repeat' split) <;> simp
  | abort => simp [execute]

/-- ERR_LEN is recorded by PUSH in ABSORB beyond the longest key. -/
theorem execute_len_iff {e : Engine K} (h : e.errcode = .noError) (c : Command) :
    (e.execute c).errcode = .len ↔
      e.phase = .absorb ∧ ∃ cnt data, c = .push cnt data ∧ maxKeyLength < e.key.length + pushCount cnt := by
  cases c with
  | nop => simp [execute, h]
  | start k size seed =>
    simp only [execute, start_errcode h]
    (repeat' split) <;> simp
  | push cnt data =>
    simp only [execute, push_errcode h]
    (repeat' split) <;> simp_all
  | finish =>
    simp only [execute, finish_errcode h]
    (repeat' split) <;> simp
  | abort => simp [execute]

end Engine

/-- A step whose event is a write to CMD is an issue. -/
theorem step_of_hostIssues {s t : State} {w : Word} (hw : s.hostIssues w) (h : step s = .next t) :
    t.toEngine = s.toEngine.issue w := by
  obtain ⟨rest, hs⟩ := List.head?_eq_some_iff.mp hw
  rw [step_event hs] at h
  obtain ⟨_, htr, -⟩ | ⟨_, _, htr, -, rfl⟩ := transact_cases h
  · cases htr
  · cases htr
    rfl

/-- From a state without an error, a step records an error exactly when it is an issue that records it, or the engine's turn
and the pending command records it. -/
theorem step_errcode_iff {s t : State} (h : step s = .next t) (hs : s.errcode = .noError) {code : ErrCode}
    (hcode : code ≠ .noError) :
    t.errcode = code ↔
      (∃ w, s.hostIssues w ∧ (s.toEngine.issue w).errcode = code) ∨
      (s.engineMoves ∧ ∃ c, s.pending = some c ∧ (s.toEngine.execute c).errcode = code) := by
  constructor
  · intro ht
    have changed : t.errcode ≠ s.errcode := by rw [ht, hs]; exact hcode
    obtain ⟨-, -, he⟩ | ⟨hm, c, hp, he⟩ | ⟨-, -, he⟩ | ⟨_, _, hsched, -⟩ := step_engine h
    · exact absurd (by rw [he]) changed
    · exact .inr ⟨hm, c, hp, by rw [← ht, he]⟩
    · exact absurd (by rw [he, hs]; rfl) changed
    · obtain ⟨w, hw⟩ := hostIssues_of_step_host hsched h (.inr changed)
      exact .inl ⟨w, hw, by rw [← ht, step_of_hostIssues hw h]⟩
  · rintro (⟨w, hw, hi⟩ | ⟨hm, c, hp, hx⟩)
    · rw [step_of_hostIssues hw h, hi]
    · obtain ⟨hnone, -⟩ | ⟨c', hp', he⟩ := step_of_engineMoves hm h
      · cases hnone.symm.trans hp
      · cases hp.symm.trans hp'
        rw [he, ← hx]

/-- An error of an issue is recorded exactly by an issue. -/
theorem step_issue_error_iff {s t : State} (h : step s = .next t) (hs : s.errcode = .noError) {code : ErrCode}
    (hcode : code ∈ [.busy, .illegal]) :
    t.errcode = code ↔ ∃ w, s.hostIssues w ∧ (s.toEngine.issue w).errcode = code := by
  have notExec : ¬ (s.engineMoves ∧ ∃ c, s.pending = some c ∧ (s.toEngine.execute c).errcode = code) := by
    rintro ⟨-, c, -, rfl⟩
    exact Engine.execute_errcode_notMem hs c hcode
  rw [step_errcode_iff h hs (by rintro rfl; simp at hcode), or_iff_left notExec]

/-- An error of a command is recorded exactly by the engine's turn that runs it. -/
theorem step_command_error_iff {s t : State} (h : step s = .next t) (hs : s.errcode = .noError) {code : ErrCode}
    (hcode : code ∉ [.noError, .busy, .illegal]) :
    t.errcode = code ↔ s.engineMoves ∧ ∃ c, s.pending = some c ∧ (s.toEngine.execute c).errcode = code := by
  have notIssue : ¬ ∃ w, s.hostIssues w ∧ (s.toEngine.issue w).errcode = code := by
    rintro ⟨w, -, rfl⟩
    exact hcode (Engine.issue_errcode_mem hs w)
  rw [step_errcode_iff h hs (by rintro rfl; simp at hcode), or_iff_right notIssue]

end Sys2Proof.Machine

namespace Sys2Proof

open Machine

/-- Settles O39: from the phase each command leaves. -/
theorem phaseWrittenByFewEvents : Obligations.PhaseWrittenByFewEvents := by
  intro s t h changed
  obtain ⟨-, -, he⟩ | ⟨hm, c, hp, he⟩ | ⟨hr, -, he⟩ | ⟨_, _, hs, -⟩ := step_engine h
  · exact absurd (by rw [he]) changed
  · have hphase : t.phase = (s.toEngine.execute c).phase := by rw [he]
    rw [hphase] at changed ⊢
    obtain ⟨⟨k, size, seed, rfl⟩, hq⟩ | ⟨rfl, hq⟩ | ⟨rfl, hq⟩ := Engine.execute_phase changed
    · exact .inl ⟨hm, ⟨k, size, seed, hp⟩, hq⟩
    · exact .inr (.inl ⟨hm, hp, hq⟩)
    · exact .inr (.inr (.inl ⟨hm, hp, hq⟩))
  · exact .inr (.inr (.inr ⟨hr, by rw [he]; rfl⟩))
  · obtain ⟨_, _, _, _, _, _, he⟩ := step_host_writes hs h
    exact absurd (by rw [he]) changed

/-- Settles O37: an error comes from an issue or from the pending command, and of each the causes are known. -/
theorem errorsHaveTheirCauses : Obligations.ErrorsHaveTheirCauses := by
  intro s t h hs
  refine ⟨?_, ?_, ?_, ?_, ?_, ?_⟩
  · simp only [step_issue_error_iff h hs (code := .busy) (by decide), Engine.issue_busy_iff hs]
  · simp only [step_issue_error_iff h hs (code := .illegal) (by decide), Engine.issue_illegal_iff hs]
  · simp only [step_command_error_iff h hs (code := .seq) (by decide), Engine.execute_seq_iff hs]
    constructor
    · rintro ⟨hm, c, hp, hph, rfl | ⟨cnt, data, rfl⟩⟩
      · exact ⟨hm, hph, .inl hp⟩
      · exact ⟨hm, hph, .inr ⟨cnt, data, hp⟩⟩
    · rintro ⟨hm, hph, hp | ⟨cnt, data, hp⟩⟩
      · exact ⟨hm, _, hp, hph, .inl rfl⟩
      · exact ⟨hm, _, hp, hph, .inr ⟨cnt, data, rfl⟩⟩
  · simp only [step_command_error_iff h hs (code := .cfgK) (by decide), Engine.execute_cfgK_iff hs]
    constructor
    · rintro ⟨hm, c, hp, k, size, seed, rfl, illegalK⟩
      exact ⟨hm, k, size, seed, hp, illegalK⟩
    · rintro ⟨hm, k, size, seed, hp, illegalK⟩
      exact ⟨hm, _, hp, k, size, seed, rfl, illegalK⟩
  · simp only [step_command_error_iff h hs (code := .cfgSize) (by decide), Engine.execute_cfgSize_iff hs]
    constructor
    · rintro ⟨hm, c, hp, k, size, seed, rfl, legalK⟩
      exact ⟨hm, k, size, seed, hp, legalK⟩
    · rintro ⟨hm, k, size, seed, hp, legalK⟩
      exact ⟨hm, _, hp, k, size, seed, rfl, legalK⟩
  · simp only [step_command_error_iff h hs (code := .len) (by decide), Engine.execute_len_iff hs]
    constructor
    · rintro ⟨hm, c, hp, hph, cnt, data, rfl, hlen⟩
      exact ⟨hm, hph, cnt, data, hp, hlen⟩
    · rintro ⟨hm, hph, cnt, data, hp, hlen⟩
      exact ⟨hm, _, hp, hph, cnt, data, rfl, hlen⟩

end Sys2Proof
end

section
/-! The invariants of R46: they speak of the engine-owned elements only, hold at reset, and every command keeps them. -/

namespace Sys2Proof.Machine

namespace Engine

variable {K : Nat} {e : Engine K}

/-- Every lane of a cleared array is 0. -/
theorem lanesZero_of_replicate (hd : e.digest = Vector.replicate K 0#32) (hb : e.bitidx = Vector.replicate K 0#32) :
    e.LanesZero := by
  intro i h
  simp [hd, hb]

/-- The invariants do not see the host-owned registers, PENDING and ERRCODE. -/
theorem Inv.of_writes (inv : e.Inv) (cfgK cfgSize seed keydata : Word) (pending : Option Command) (code : ErrCode) :
    Inv { e with cfgK := cfgK, cfgSize := cfgSize, seed := seed, keydata := keydata, pending := pending,
                 errcode := code } :=
  ⟨inv.idle, inv.operands, inv.absorb, inv.inactive, inv.inRange, inv.keyLength⟩

/-- In IDLE the invariants are item 1. -/
theorem inv_of_idle (phase : e.phase = .idle) (key : e.key = []) (actK : e.actK = 0#32) (actSize : e.actSize = 0#32)
    (actSeed : e.actSeed = 0#32) (lanes : e.LanesZero) : e.Inv where
  idle _ := ⟨key, actK, actSize, actSeed, lanes⟩
  operands h := absurd phase h
  absorb h := by cases phase.symm.trans h
  inactive i h _ := lanes i h
  inRange h := by cases phase.symm.trans h
  keyLength := by simp [key]

/-- Reset meets the invariants, whatever the number of lanes. -/
theorem reset_inv (K : Nat) : (Engine.reset K).Inv :=
  inv_of_idle rfl rfl rfl rfl rfl (lanesZero_of_replicate rfl rfl)

/-- Recovery ends in IDLE with nothing left of the key (60_exceptions.md R170). -/
theorem recover_inv (e : Engine K) : e.recover.Inv :=
  inv_of_idle rfl rfl rfl rfl rfl (lanesZero_of_replicate rfl rfl)

/-- A new key has legal operands and no results. -/
theorem beginKey_inv {k size : Word} (seed : Word) (e : Engine K) (hk : k ≠ 0#32) (hK : k.toNat ≤ K)
    (hsize : size ≠ 0#32) : (e.beginKey k size seed).Inv where
  idle h := by cases h
  operands _ := ⟨BitVec.toNat_pos_of_ne_zero hk, hK, BitVec.toNat_pos_of_ne_zero hsize⟩
  absorb _ := lanesZero_of_replicate rfl rfl
  inactive i h _ := lanesZero_of_replicate rfl rfl i h
  inRange h := by cases h
  keyLength := by simp

/-- KEY may grow in ABSORB up to the longest key. -/
theorem Inv.append (inv : e.Inv) (phase : e.phase = .absorb) {key : List Byte} (hlen : key.length ≤ maxKeyLength) :
    Inv { e with key := key } where
  idle h := by cases phase.symm.trans h
  operands := inv.operands
  absorb := inv.absorb
  inactive := inv.inactive
  inRange := inv.inRange
  keyLength := hlen

/-- ABSORB has legal operands. -/
theorem Inv.operands_of_absorb (inv : e.Inv) (phase : e.phase = .absorb) :
    1 ≤ e.actK.toNat ∧ e.actK.toNat ≤ K ∧ 1 ≤ e.actSize.toNat :=
  inv.operands (by rw [phase]; decide)

/-- The results of FINISH are in range, and it leaves the inactive lanes. -/
theorem Inv.closeKey (inv : e.Inv) (phase : e.phase = .absorb) : e.closeKey.Inv where
  idle h := by cases h
  operands _ := inv.operands_of_absorb phase
  absorb h := by cases h
  inactive i h hi := by
    rw [closeKey_actK] at hi
    rw [closeKey_digest, closeKey_bitidx, if_neg (Nat.not_lt.mpr hi), if_neg (Nat.not_lt.mpr hi)]
    exact inv.inactive i h hi
  inRange _ i h hi := by
    rw [closeKey_actK] at hi
    obtain ⟨-, -, hsize⟩ := inv.operands_of_absorb phase
    have hne : e.actSize ≠ 0#32 := by rintro h0; simp [h0] at hsize
    rw [closeKey_actSize, closeKey_digest, closeKey_bitidx, if_pos hi, if_pos hi, bitIndex_toNat _ hne]
    exact ⟨Nat.mod_lt _ (by omega), Nat.mod_le _ _⟩
  keyLength := inv.keyLength

@[simp] theorem pushBytes_length (cnt : BitVec 2) (data : Word) : (pushBytes cnt data).length = pushCount cnt := by
  simp [pushBytes]

/-- Every command keeps the invariants. -/
theorem Inv.execute (inv : e.Inv) (c : Command) : (e.execute c).Inv := by
  cases c with
  | nop => exact inv
  | start k size seed =>
    change (e.start k size seed).Inv
    obtain ⟨-, h⟩ | ⟨-, -, h⟩ | ⟨-, -, -, -, h⟩ | ⟨-, hk, hK, hsize, h⟩ := start_cases k size seed e <;> rw [h]
    · exact inv
    · exact inv.of_writes ..
    · exact inv.of_writes ..
    · exact beginKey_inv seed e hk hK hsize
  | push cnt data =>
    change (e.push cnt data).Inv
    obtain ⟨-, h⟩ | ⟨-, -, h⟩ | ⟨-, -, -, h⟩ | ⟨-, phase, hlen, h⟩ := push_cases cnt data e <;> rw [h]
    · exact inv
    · exact inv.of_writes ..
    · exact inv.of_writes ..
    · exact inv.append phase (by simpa using hlen)
  | finish =>
    change e.finish.Inv
    obtain ⟨-, h⟩ | ⟨-, -, h⟩ | ⟨-, phase, h⟩ := finish_cases e <;> rw [h]
    · exact inv
    · exact inv.of_writes ..
    · exact inv.closeKey phase
  | abort => exact recover_inv e

end Engine
end Sys2Proof.Machine

namespace Sys2Proof

open Machine

/-- Settles O43: reset is IDLE with nothing in it, and has no results to be right. -/
theorem invariantsHoldAtReset : Obligations.InvariantsHoldAtReset :=
  ⟨Engine.reset_inv Config.kMax, fun h => by cases h⟩

/-- Settles O44: a command keeps the invariants, a reset establishes them, and no host writes what they speak of. -/
theorem stepKeepsInvariants : Obligations.StepKeepsInvariants := by
  intro s t inv h
  obtain ⟨-, -, he⟩ | ⟨-, c, -, he⟩ | ⟨-, -, he⟩ | ⟨_, _, hs, -⟩ := step_engine h
  · rwa [he]
  · rw [he]
    exact (inv.execute c).of_writes ..
  · rw [he]
    exact Engine.reset_inv Config.kMax
  · obtain ⟨_, _, _, _, _, _, he⟩ := step_host_writes hs h
    rw [he]
    exact inv.of_writes ..

end Sys2Proof
end

section
/-! The views: STATUS, PARAM (10_state.md R28 to R32). -/

namespace Sys2Proof.Machine

namespace Engine

variable {K : Nat}

/-- STATUS while idle is its fields, from the most significant down (10_state.md R28). -/
theorem statusIdle_eq_append (e : Engine K) :
    e.statusIdle = 0#24 ++ e.errcode.code ++ 0#1 ++ e.phase.code ++ 0#1 := by
  unfold statusIdle
  cases e.phase <;> cases e.errcode <;> rfl

/-- The fields of a word laid out as STATUS is. -/
theorem extract_statusFields (err : BitVec 4) (phase : BitVec 2) :
    let status := 0#24 ++ err ++ 0#1 ++ phase ++ 0#1
    status.extractLsb' 0 1 = 0#1 ∧ status.extractLsb' 1 2 = phase ∧ status.extractLsb' 3 1 = 0#1 ∧
      status.extractLsb' 4 4 = err ∧ status.extractLsb' 8 24 = 0#24 := by
  refine ⟨BitVec.extractLsb'_append_eq_right, ?_, ?_, ?_, ?_⟩
  · rw [BitVec.extractLsb'_append_eq_of_le (by decide)]
    exact BitVec.extractLsb'_append_eq_right
  · iterate 2 rw [BitVec.extractLsb'_append_eq_of_le (by decide)]
    exact BitVec.extractLsb'_append_eq_right
  · iterate 3 rw [BitVec.extractLsb'_append_eq_of_le (by decide)]
    exact BitVec.extractLsb'_append_eq_right
  · iterate 3 rw [BitVec.extractLsb'_append_eq_of_le (by decide)]
    exact BitVec.extractLsb'_append_eq_left

/-- STATUS while busy: BUSY in bit 0, a draw of 31 bits above it (20_memory.md R63). -/
theorem statusBusy_eq_append (d : Word) : statusBusy d = d.setWidth 31 ++ 1#1 := by
  rw [BitVec.append_def, BitVec.shiftLeftZeroExtend_eq]
  rfl

/-- Bit 0 of STATUS while busy is BUSY (10_state.md R28). -/
theorem statusBusy_busyBit (d : Word) : (statusBusy d).extractLsb' 0 1 = 1#1 := by
  rw [statusBusy_eq_append]
  exact BitVec.extractLsb'_append_eq_right

/-- A read of STATUS while idle. -/
theorem regRead_status_idle {e : Engine K} (h : e.pending = none) (d : Word) :
    e.regRead d 0x004#12 = e.statusIdle := by
  change (if e.pending.isSome then statusBusy d else e.statusIdle) = _
  simp [h]

/-- A read of STATUS while busy. -/
theorem regRead_status_busy {e : Engine K} (h : e.pending ≠ none) (d : Word) :
    e.regRead d 0x004#12 = statusBusy d := by
  change (if e.pending.isSome then statusBusy d else e.statusIdle) = _
  simp [Option.isSome_iff_ne_none.mpr h]

/-- The fields of PARAM: K_MAX fits its nine bits (10_state.md R32). -/
theorem param_fields (e : Engine K) (h : K ≤ 256) :
    e.param.extractLsb' 0 9 = BitVec.ofNat 9 K ∧ e.param.toNat = K ∧ e.param.extractLsb' 9 23 = 0#23 := by
  have value : e.param.toNat = K := by simp [param]; omega
  have high : K / 2 ^ 9 = 0 := by omega
  refine ⟨?_, value, ?_⟩
  · apply BitVec.eq_of_toNat_eq
    rw [BitVec.extractLsb'_toNat, value]
    rfl
  · apply BitVec.eq_of_toNat_eq
    rw [BitVec.extractLsb'_toNat, value, Nat.shiftRight_eq_div_pow, high]
    rfl

end Engine
end Sys2Proof.Machine

namespace Sys2Proof

open Machine

/-- Settles O41: the elements and the views are those of `Engine.reset`, by definition. -/
theorem resetValues : Obligations.ResetValues :=
  ⟨rfl, rfl, rfl, rfl, rfl, rfl, rfl, rfl, rfl, rfl, rfl,
    Engine.lanesZero_of_replicate (e := State.reset.toEngine) rfl rfl, fun _ => ⟨rfl, rfl, rfl, rfl⟩⟩

/-- Settles O34: STATUS is the concatenation of its fields, idle and busy, and bit 0 tells the two apart. -/
theorem statusFields : Obligations.StatusFields := by
  refine ⟨fun e => ?_, fun e d hp => ?_, fun e x hp => ⟨x.setWidth 32, ?_⟩, ⟨rfl, rfl, rfl⟩,
    ⟨rfl, rfl, rfl, rfl, rfl, rfl, rfl⟩, fun e => e.param_fields kMax_le⟩
  · have fields := Engine.extract_statusFields e.errcode.code e.phase.code
    rw [← e.statusIdle_eq_append] at fields
    have idleBit : e.statusIdle.extractLsb' 0 1 = 0#1 := fields.left
    refine ⟨⟨fun same => ?_, fun idle => Engine.regRead_status_idle idle _⟩, fields⟩
    refine Decidable.byContradiction fun busy => ?_
    have busyBit := Engine.statusBusy_busyBit 0#32
    rw [← Engine.regRead_status_busy busy, same, idleBit] at busyBit
    cases busyBit
  · rw [Engine.regRead_status_busy hp, Engine.statusBusy_busyBit]
  · rw [Engine.regRead_status_busy hp, Engine.statusBusy_eq_append]
    simp

end Sys2Proof
end

section
/-! The register port: which transactions a step refuses, and what an admitted one does (20_memory.md R51 to R55, R63,
R64). -/

namespace Sys2Proof.Machine

/-- A transaction of another width is refused as such, aligned or not (20_memory.md R53; log entry 19). -/
theorem transact_wrong_width {t : Transaction} (h : t.width ≠ .bits32) (s : State) :
    transact t s = .refused .unsupportedWidth := by
  simp [transact, Transaction.widthOk, h]

/-- A 32-bit transaction at a misaligned offset is refused as misaligned (20_memory.md R54). -/
theorem transact_misaligned {t : Transaction} (hw : t.width = .bits32) (h : t.off.toNat % 4 ≠ 0) (s : State) :
    transact t s = .refused .misaligned := by
  simp [transact, Transaction.widthOk, Transaction.aligned, hw, h]

/-- An event goes on if it is no transaction that the port refuses. -/
theorem runEvent_completes {ev : Event} (h : ev.admitted = true) (s : State) : ∃ t, runEvent ev s = .next t := by
  cases ev with
  | host tr => exact transact_completes h s
  | engine => exact engineTurn_completes s
  | reset => exact ⟨_, rfl⟩

/-- A step goes on if its event is no transaction that the port refuses. -/
theorem step_completes {s : State} (h : ∀ ev ∈ s.schedule.head?, ev.admitted = true) : ∃ t, step s = .next t := by
  cases hs : s.schedule with
  | nil => rw [step_empty hs]; exact engineTurn_completes s
  | cons ev rest => rw [step_event hs]; exact runEvent_completes (h ev (by simp [hs])) _

/-- The step of an admitted write, whole. -/
theorem step_write {s : State} {off : Offset} {v : Word} {rest : List Event} (aligned : off.toNat % 4 = 0)
    (hs : s.schedule = .host (.write .bits32 off v) :: rest) :
    step s = .next { s with schedule := rest, toEngine := s.toEngine.regWrite off v } := by
  rw [step_event hs]
  exact transact_write aligned v _

/-- The step of an admitted read, whole. -/
theorem step_read {s : State} {off : Offset} {rest : List Event} (aligned : off.toNat % 4 = 0)
    (hs : s.schedule = .host (.read .bits32 off) :: rest) :
    step s = .next { s with
      schedule := rest, readData := some (s.toEngine.regRead (Config.freeWord s.draws) off), draws := s.draws + 1 } := by
  rw [step_event hs]
  exact transact_read aligned _

/-- Beyond the last single register there are only the lane arrays and reserved offsets (20_memory.md R51). -/
theorem regAt_of_ge {K : Nat} {off : Offset} (h : 0x02C ≤ off.toNat) :
    regAt K off =
      if off.toNat < 0x400 then .reserved
      else if off.toNat < 0x800 then
        if h : (off.toNat - 0x400) / 4 < K then .digest ⟨(off.toNat - 0x400) / 4, h⟩ else .reserved
      else if off.toNat < 0xC00 then
        if h : (off.toNat - 0x800) / 4 < K then .bitidx ⟨(off.toNat - 0x800) / 4, h⟩ else .reserved
      else .reserved := by
  have single {a : Offset} (ha : a.toNat < 0x02C) : off ≠ a := by rintro rfl; omega
  unfold regAt
  iterate 11 rw [if_neg (single (by decide))]

/-- DIGEST[i] stands at its offset (20_memory.md R51). -/
theorem regAt_digestOffset {K : Nat} (hK : K ≤ 256) (i : Nat) (h : i < K) :
    regAt K (digestOffset i) = .digest ⟨i, h⟩ := by
  have hoff : (digestOffset i).toNat = 0x400 + 4 * i := by simp [digestOffset]; omega
  have hlane : (0x400 + 4 * i - 0x400) / 4 = i := by omega
  rw [regAt_of_ge (by omega), if_neg (by omega), if_pos (by omega)]
  simp [hoff, h]

/-- BITIDX[i] stands at its offset (20_memory.md R51). -/
theorem regAt_bitidxOffset {K : Nat} (hK : K ≤ 256) (i : Nat) (h : i < K) :
    regAt K (bitidxOffset i) = .bitidx ⟨i, h⟩ := by
  have hoff : (bitidxOffset i).toNat = 0x800 + 4 * i := by simp [bitidxOffset]; omega
  rw [regAt_of_ge (by omega), if_neg (by omega), if_neg (by omega), if_pos (by omega)]
  simp [hoff, h]

/-- The reserved offsets: the gaps between the register groups, and the slots of the lane arrays from K_MAX on
(20_memory.md R51). -/
theorem regAt_reserved {K : Nat} {off : Offset}
    (h : (0x02C ≤ off.toNat ∧ off.toNat ≤ 0x3FC) ∨ (0x400 + 4 * K ≤ off.toNat ∧ off.toNat < 0x800) ∨
      (0x800 + 4 * K ≤ off.toNat ∧ off.toNat < 0xC00) ∨ 0xC00 ≤ off.toNat) :
    regAt K off = .reserved := by
  rw [regAt_of_ge (by omega)]
  obtain ⟨-, hhi⟩ | ⟨hlo, hhi⟩ | ⟨hlo, hhi⟩ | hlo := h
  · rw [if_pos (by omega)]
  · rw [if_neg (by omega), if_pos hhi, dif_neg (by omega)]
  · rw [if_neg (by omega), if_neg (by omega), if_pos hhi, dif_neg (by omega)]
  · rw [if_neg (by omega), if_neg (by omega), if_neg (by omega)]

/-- A read that is exact only while idle (20_memory.md R63). -/
theorem Engine.exactOrDraw_eq {K : Nat} (e : Engine K) (d v : Word) :
    e.exactOrDraw d v = if e.pending = none then v else d := by
  cases h : e.pending <;> simp [exactOrDraw, busy, h]

end Sys2Proof.Machine

namespace Sys2Proof

open Machine

/-- Settles O31: `transact` makes the two refusals in this order, and every other event goes on. -/
theorem onlyBadTransactionsAreRefused : Obligations.OnlyBadTransactionsAreRefused := by
  refine fun s => ⟨fun t rest hs => ?_, fun admitted => step_completes fun ev hev => ?_⟩
  · rw [step_event hs]
    exact ⟨fun hw => transact_wrong_width hw _, fun hw ha => transact_misaligned hw ha _⟩
  · obtain ⟨rest, hs⟩ := List.head?_eq_some_iff.mp hev
    cases ev with
    | host t =>
      simpa [Event.admitted, Transaction.admitted, Transaction.widthOk, Transaction.aligned] using admitted t rest hs
    | engine => rfl
    | reset => rfl

/-- Settles O32: the step of a write is `regWrite`, which is known register by register. -/
theorem writeStoresOrIsIgnored : Obligations.WriteStoresOrIsIgnored := by
  intro s off v rest aligned hs
  rw [step_write aligned hs]
  refine ⟨?_, ?_, ?_, ?_, ?_, fun h0 h1 h2 h3 h4 => ?_⟩
  · rintro rfl
    obtain ⟨_, _, h⟩ := s.toEngine.issue_writes v
    exact ⟨_, rfl, by simp [regWrite_cmd, h], rfl⟩
  iterate 4 rintro rfl; rfl
  obtain ⟨h, -⟩ | ⟨h, -⟩ | ⟨h, -⟩ | ⟨h, -⟩ | ⟨h, -⟩ | ⟨-, -, -, -, -, h⟩ := regWrite_cases s.toEngine off v
  iterate 5 contradiction
  rw [h]

/-- Settles O33: the step of a read is `regRead` with the read's draw, which the register map decides. -/
theorem readReturnsRegisterOrDraw : Obligations.ReadReturnsRegisterOrDraw := by
  rintro s rest d rfl reads whenIdle
  have readsValue {off : Offset} {v : Word} (aligned : off.toNat % 4 = 0)
      (value : s.toEngine.regRead (Config.freeWord s.draws) off = v) : reads off v := by
    subst value
    exact step_read aligned
  have readsIdle {off : Offset} {v : Word} (aligned : off.toNat % 4 = 0)
      (value : s.toEngine.regRead (Config.freeWord s.draws) off =
        s.toEngine.exactOrDraw (Config.freeWord s.draws) v) : reads off (whenIdle v) :=
    readsValue aligned (value.trans (s.toEngine.exactOrDraw_eq ..))
  refine ⟨readsValue rfl rfl, readsValue rfl (s.toEngine.exactOrDraw_eq ..), readsValue rfl rfl, readsValue rfl rfl,
    readsValue rfl rfl, readsValue rfl rfl, readsValue rfl rfl, readsIdle rfl rfl, readsIdle rfl rfl, readsIdle rfl rfl,
    readsIdle rfl rfl, fun i h => readsIdle ?_ ?_, fun i h => readsIdle ?_ ?_,
    fun off aligned h => readsValue aligned ?_⟩
  · simp
  · rw [Engine.regRead, ← digestOffset, regAt_digestOffset kMax_le i h]; rfl
  · simp
  · rw [Engine.regRead, ← bitidxOffset, regAt_bitidxOffset kMax_le i h]; rfl
  · rw [Engine.regRead, regAt_reserved h]; rfl

end Sys2Proof
end

section
/-! Host scripts that wait after every command (30_encoding.md R80): whatever the order of the host's and the engine's
turns, the engine ends as if each pending command had run at the wait after it. -/

namespace Sys2Proof.Machine

/-- The decoder inverts the encoder (30_encoding.md R73, R77). -/
theorem decode_encode (i : Instr) : decode (encode i) = .ok i := by
  cases i with
  | push cnt =>
    have byValue : ∀ n : Fin 4, decode (encode (.push (.ofFin n))) = .ok (.push (.ofFin n)) := by
      intro n
      match n with
      | 0 => rfl
      | 1 => rfl
      | 2 => rfl
      | 3 => rfl
    exact byValue cnt.toFin
  | nop => rfl
  | start => rfl
  | finish => rfl
  | abort => rfl

namespace Engine

variable {K : Nat}

/-- The engine once nothing is pending any more: what the engine's turn leaves (`engineTurn_settle`). -/
def settle (e : Engine K) : Engine K :=
  match e.pending with
  | none => e
  | some c => { e.execute c with pending := none }

theorem settle_of_pending_none {e : Engine K} (h : e.pending = none) : e.settle = e := by simp [settle, h]

theorem settle_of_pending_some {e : Engine K} {c : Command} (h : e.pending = some c) :
    e.settle = { e.execute c with pending := none } := by simp [settle, h]

@[simp] theorem settle_pending (e : Engine K) : e.settle.pending = none := by
  cases h : e.pending with
  | none => rw [settle_of_pending_none h, h]
  | some c => rw [settle_of_pending_some h]

/-- What a line of a script leaves of the engine when the engine takes its turn at the polls (`Waited.ended`). -/
def afterLine (e : Engine K) : Line → Engine K
  | .write off v => e.regWrite off v
  | .command i => e.issue (encode i)
  | .poll _ _ _ => e.settle
  | .read _ _ => e
  | .comment _ => e

/-- What a script leaves of the engine, line by line. -/
def afterLines (e : Engine K) (script : List Line) : Engine K := script.foldl afterLine e

@[simp] theorem afterLines_nil (e : Engine K) : e.afterLines [] = e := rfl

@[simp] theorem afterLines_cons (e : Engine K) (line : Line) (script : List Line) :
    e.afterLines (line :: script) = (e.afterLine line).afterLines script := rfl

@[simp] theorem afterLines_append (e : Engine K) (a b : List Line) :
    e.afterLines (a ++ b) = (e.afterLines a).afterLines b := List.foldl_append

/-- A command word written to a free engine is captured (42_commands.md R140). -/
theorem issue_encode {e : Engine K} (h : e.pending = none) (i : Instr) :
    e.issue (encode i) = { e with pending := some (e.latch i) } := by simp [issue, h, decode_encode]

/-- A poll of BUSY passes exactly when nothing is pending (10_state.md R31, 30_encoding.md R80). -/
theorem regRead_status_busyBit (e : Engine K) (d : Word) :
    (e.regRead d 0x004#12 &&& 0x1#32 == 0x0#32) = e.pending.isNone := by
  have bit0 (x : Word) : (x &&& 0x1#32 == 0x0#32) = (x.extractLsb' 0 1 == 0#1) := by
    rw [Bool.eq_iff_iff, beq_iff_eq, beq_iff_eq, ← BitVec.toNat_inj, ← BitVec.toNat_inj, BitVec.toNat_and,
      BitVec.extractLsb'_toNat]
    simp
  rw [bit0]
  cases h : e.pending with
  | none =>
    obtain ⟨idleBit, -⟩ := extract_statusFields e.errcode.code e.phase.code
    rw [regRead_status_idle h, statusIdle_eq_append, idleBit]
    rfl
  | some c =>
    rw [regRead_status_busy (by simp [h]), statusBusy_busyBit]
    rfl

end Engine

/-- The engine's turn, pending command or not. -/
theorem engineTurn_settle (s : State) : engineTurn s = .next { s with toEngine := s.toEngine.settle } := by
  cases h : s.pending with
  | none => rw [engineTurn_idle h, Engine.settle_of_pending_none h]
  | some c => rw [engineTurn_effect h, Engine.settle_of_pending_some h]

/-- The poll line of `WAIT` (30_encoding.md R80). -/
abbrev waitLine : Line := .poll 0x004#12 0x1#32 0x0#32

/-- Scripts whose lines are waits, writes to registers other than CMD, and commands with a wait right after them. -/
inductive Waited : List Line → Prop
  | nil : Waited []
  | write {off : Offset} (v : Word) {script : List Line} (aligned : off.toNat % 4 = 0) (notCmd : off ≠ 0x000#12)
      (tail : Waited script) : Waited (.write off v :: script)
  | wait {script : List Line} (tail : Waited script) : Waited (waitLine :: script)
  | command (i : Instr) {script : List Line} (tail : Waited script) : Waited (.command i :: waitLine :: script)

theorem Waited.append {a b : List Line} (ha : Waited a) (hb : Waited b) : Waited (a ++ b) := by
  induction ha with
  | nil => exact hb
  | write v aligned notCmd _ ih => exact .write v aligned notCmd ih
  | wait _ ih => exact .wait ih
  | command i _ ih => exact .command i ih

/-- `ISSUE m` waits. -/
theorem waited_issueLines (i : Instr) : Waited (issueLines i) := .command i .nil

/-- A group of `PUSHKEY` waits. -/
theorem waited_pushGroup (cnt : BitVec 2) (data : Word) :
    Waited (.write 0x018#12 data :: issueLines (.push cnt)) :=
  .write data rfl (by decide) (waited_issueLines _)

/-- `PUSHKEY b` waits. -/
theorem waited_pushKeyLines (b : List Byte) : Waited (pushKeyLines b) := by
  fun_induction pushKeyLines b with
  | case1 _ _ _ _ _ ih => exact (waited_pushGroup ..).append ih
  | case2 => exact waited_pushGroup ..
  | case3 => exact waited_pushGroup ..
  | case4 => exact waited_pushGroup ..
  | case5 => exact .nil

/-- `HASHKEY b, k, size, seed` waits. -/
theorem waited_hashKeyLines (b : List Byte) (k size seed : Word) : Waited (hashKeyLines b k size seed) := by
  have configured : Waited (.write 0x00C#12 k :: .write 0x010#12 size :: .write 0x014#12 seed :: issueLines .start) :=
    .write k rfl (by decide) (.write size rfl (by decide) (.write seed rfl (by decide) (waited_issueLines _)))
  exact (configured.append (waited_pushKeyLines b)).append (waited_issueLines _)

/-! The turns on such a script, line by line. -/

theorem takeTurn_engine (r : HostRun) :
    takeTurn .engine r = .next { r with machine := { r.machine with toEngine := r.machine.toEngine.settle } } := by
  simp [takeTurn, engineTurn_settle, HostRun.onMachine]

theorem hostTurn_write {off : Offset} (aligned : off.toNat % 4 = 0) (s : State) (v : Word) (script : List Line)
    (values : List (String × Word)) :
    hostTurn ⟨s, .write off v :: script, values⟩ =
      .next ⟨{ s with toEngine := s.toEngine.regWrite off v }, script, values⟩ := by
  simp [hostTurn, Line.transaction, transact_write aligned, Line.over, Line.record]

theorem hostTurn_command (s : State) (i : Instr) (script : List Line) (values : List (String × Word)) :
    hostTurn ⟨s, .command i :: script, values⟩ =
      .next ⟨{ s with toEngine := s.toEngine.issue (encode i) }, script, values⟩ := by
  simp [hostTurn, Line.transaction, transact_write, Line.over, Line.record, regWrite_cmd]

/-- A wait is over exactly when nothing is pending. -/
theorem hostTurn_wait (s : State) (script : List Line) (values : List (String × Word)) :
    hostTurn ⟨s, waitLine :: script, values⟩ =
      .next ⟨{ s with readData := some (s.toEngine.regRead (Config.freeWord s.draws) 0x004#12), draws := s.draws + 1 },
        if s.pending.isNone then script else waitLine :: script, values⟩ := by
  simp [hostTurn, Line.transaction, transact_read, Line.over, Line.record, Engine.regRead_status_busyBit]

/-- A run of a waiting script on the way to the engine `final`: a command is pending only before its wait, and the lines that
are left lead to `final`. -/
structure Tracks (final : Engine Config.kMax) (values : List (String × Word)) (r : HostRun) : Prop where
  waited : Waited r.script
  free : r.machine.pending = none ∨ ∃ rest, r.script = waitLine :: rest
  leads : r.machine.toEngine.afterLines r.script = final
  values : r.values = values

section

variable {final : Engine Config.kMax} {values : List (String × Word)} {r r' : HostRun}

/-- The engine's turn before a wait is the settling that the wait stands for. -/
theorem Tracks.of_engineTurn (tracks : Tracks final values r) :
    Tracks final values { r with machine := { r.machine with toEngine := r.machine.toEngine.settle } } := by
  obtain ⟨waited, free, leads, hvalues⟩ := tracks
  refine ⟨waited, .inl (Engine.settle_pending _), ?_, hvalues⟩
  obtain idle | ⟨rest, hscript⟩ := free
  · rwa [Engine.settle_of_pending_none idle]
  · rw [hscript] at leads ⊢
    have settled := Engine.settle_of_pending_none (Engine.settle_pending r.machine.toEngine)
    simpa [Engine.afterLine, settled] using leads

/-- The host's turn is its first line's effect, or a poll that goes on. -/
theorem Tracks.of_hostTurn (tracks : Tracks final values r) (h : hostTurn r = .next r') : Tracks final values r' := by
  obtain ⟨s, script, vs⟩ := r
  obtain ⟨waited, free, leads, rfl⟩ := tracks
  cases waited with
  | nil =>
    obtain rfl : _ = r' := by simpa [hostTurn] using h
    exact ⟨.nil, free, leads, rfl⟩
  | write v aligned notCmd tail =>
    obtain rfl : _ = r' := by simpa [hostTurn_write aligned] using h
    have idle : s.pending = none := by simpa using free
    exact ⟨tail, .inl ((s.toEngine.regWrite_of_ne_cmd v notCmd).left.trans idle), leads, rfl⟩
  | command i tail =>
    obtain rfl : _ = r' := by simpa [hostTurn_command] using h
    exact ⟨.wait tail, .inr ⟨_, rfl⟩, leads, rfl⟩
  | wait tail =>
    obtain rfl : _ = r' := by simpa [hostTurn_wait] using h
    cases idle : s.pending with
    | none =>
      have settled := Engine.settle_of_pending_none idle
      refine ⟨tail, .inl idle, ?_, rfl⟩
      simpa [Engine.afterLine, settled] using leads
    | some c => exact ⟨.wait tail, .inr ⟨_, rfl⟩, leads, rfl⟩

/-- Every turn but a reset keeps a run on its way. -/
theorem Tracks.of_takeTurn (tracks : Tracks final values r) {who : Turn} (noReset : who ≠ .reset)
    (h : takeTurn who r = .next r') : Tracks final values r' := by
  cases who with
  | host => exact tracks.of_hostTurn h
  | engine =>
    obtain rfl : _ = r' := by simpa [takeTurn_engine] using h
    exact tracks.of_engineTurn
  | reset => exact absurd rfl noReset

end

/-- Turns that go on do so one after the other. -/
theorem takeTurns_cons {who : Turn} {turns : List Turn} {r r' : HostRun} :
    takeTurns (who :: turns) r = .next r' ↔ ∃ m, takeTurn who r = .next m ∧ takeTurns turns m = .next r' := by
  rw [takeTurns]
  cases takeTurn who r <;> simp

/-- Turns without a reset keep a run on its way. -/
theorem Tracks.of_takeTurns {final : Engine Config.kMax} {values : List (String × Word)} {turns : List Turn}
    {r r' : HostRun} (tracks : Tracks final values r) (noReset : Turn.reset ∉ turns)
    (h : takeTurns turns r = .next r') : Tracks final values r' := by
  induction turns generalizing r with
  | nil =>
    obtain rfl : r = r' := by simpa [takeTurns] using h
    exact tracks
  | cons who turns ih =>
    obtain ⟨first, others⟩ := List.ne_and_not_mem_of_not_mem_cons noReset
    obtain ⟨m, hfirst, hothers⟩ := takeTurns_cons.mp h
    exact ih (tracks.of_takeTurn first.symm hfirst) others hothers

/-- When a waiting script has ended, the engine is what its lines leave, whatever the order of the turns. -/
theorem Waited.ended {s : State} {script : List Line} {values : List (String × Word)} {turns : List Turn} {r : HostRun}
    (waited : Waited script) (idle : s.pending = none) (noReset : Turn.reset ∉ turns)
    (h : takeTurns turns ⟨s, script, values⟩ = .next r) (ended : r.ended = true) :
    r.machine.pending = none ∧ r.machine.toEngine = s.toEngine.afterLines script ∧ r.values = values := by
  have start : Tracks (s.toEngine.afterLines script) values ⟨s, script, values⟩ := ⟨waited, .inl idle, rfl, rfl⟩
  obtain ⟨-, free, leads, hvalues⟩ := start.of_takeTurns noReset h
  have done : r.script = [] := by simpa [HostRun.ended] using ended
  rw [done] at free leads
  exact ⟨by simpa using free, leads, hvalues⟩

/-- Some order of turns without a reset ends the script. -/
def HostRun.CanEnd (r : HostRun) : Prop :=
  ∃ (turns : List Turn) (r' : HostRun), Turn.reset ∉ turns ∧ takeTurns turns r = .next r' ∧ r'.ended = true

/-- A run can end if it can after one turn. -/
theorem HostRun.CanEnd.of_takeTurn {who : Turn} {r m : HostRun} (noReset : who ≠ .reset)
    (first : takeTurn who r = .next m) (canEnd : m.CanEnd) : r.CanEnd := by
  obtain ⟨turns, r', others, run, ended⟩ := canEnd
  exact ⟨who :: turns, r', List.not_mem_cons_of_ne_of_not_mem noReset.symm others, takeTurns_cons.mpr ⟨m, first, run⟩,
    ended⟩

/-- A wait of a free engine takes one turn of the host. -/
theorem HostRun.CanEnd.of_wait {s : State} {rest : List Line} {values : List (String × Word)} (idle : s.pending = none)
    (canEnd : ∀ t : State, t.pending = none → CanEnd ⟨t, rest, values⟩) :
    CanEnd ⟨s, waitLine :: rest, values⟩ := by
  have turn := hostTurn_wait s rest values
  simp only [idle, Option.isNone_none, if_true] at turn
  exact .of_takeTurn (who := .host) (by decide) turn (canEnd _ idle)

/-- A waiting script can end: the engine moves once after every command. -/
theorem Waited.canEnd {script : List Line} (waited : Waited script) {s : State} (idle : s.pending = none)
    (values : List (String × Word)) : HostRun.CanEnd ⟨s, script, values⟩ := by
  induction waited generalizing s with
  | nil => exact ⟨[], _, by simp, rfl, rfl⟩
  | write v aligned notCmd _ ih =>
    exact .of_takeTurn (who := .host) (by decide) (hostTurn_write aligned ..)
      (ih ((s.toEngine.regWrite_of_ne_cmd v notCmd).left.trans idle))
  | wait _ ih => exact .of_wait idle fun _ => ih
  | command i _ ih =>
    refine .of_takeTurn (who := .host) (by decide) (hostTurn_command ..) ?_
    refine .of_takeTurn (who := .engine) (by decide) (takeTurn_engine _) ?_
    exact .of_wait (Engine.settle_pending _) fun _ => ih

end Sys2Proof.Machine
end

section
/-! `PUSHKEY` and `HASHKEY` (30_encoding.md R80): what their lines leave of the engine. -/

namespace Sys2Proof.Machine

/-- The byte lanes take a little-endian word apart again (00_scope.md R11, 20_memory.md R56). -/
theorem byteLanes_le32 (b0 b1 b2 b3 : Byte) :
    (List.range 4).map (byteLane (le32 b0 b1 b2 b3)) = [b0, b1, b2, b3] := by
  change [byteLane _ 0, byteLane _ 1, byteLane _ 2, byteLane _ 3] = _
  simp only [List.cons.injEq, and_true]
  refine ⟨?_, ?_, ?_, ?_⟩
  all_goals
    refine BitVec.eq_of_getLsbD_eq fun i hi => ?_
    simp only [byteLane, le32, BitVec.getLsbD_extractLsb', BitVec.getLsbD_or, BitVec.getLsbD_shiftLeft,
      BitVec.getLsbD_setWidth]
    grind

/-- PUSH takes the first bytes of the word KEYDATA was assembled from (42_commands.md R146). -/
theorem pushBytes_le32 (cnt : BitVec 2) (b0 b1 b2 b3 : Byte) :
    pushBytes cnt (le32 b0 b1 b2 b3) = [b0, b1, b2, b3].take (pushCount cnt) := by
  have lanes : List.range (pushCount cnt) = (List.range 4).take (pushCount cnt) := by
    rw [List.take_range, Nat.min_eq_left (show pushCount cnt ≤ 4 from cnt.isLt)]
  rw [pushBytes, lanes, List.map_take, byteLanes_le32]

namespace Engine

variable {K : Nat} {e : Engine K}

/-- No command reads or writes PENDING: its operands were latched (42_commands.md R141). -/
theorem execute_with_pending (e : Engine K) (c : Command) (p : Option Command) :
    ({ e with pending := p } : Engine K).execute c = { e.execute c with pending := p } := by
  cases c with
  | nop => rfl
  | start k size seed =>
    obtain ⟨he, h⟩ | ⟨he, hk, h⟩ | ⟨he, hk, hK, hs, h⟩ | ⟨he, hk, hK, hs, h⟩ := start_cases k size seed e <;>
      rw [execute, execute, h] <;> simp [start, poisoned, recordErr, beginKey, clearLanes, *]
  | push cnt data =>
    obtain ⟨he, h⟩ | ⟨he, ha, h⟩ | ⟨he, ha, hl, h⟩ | ⟨he, ha, hl, h⟩ := push_cases cnt data e <;>
      rw [execute, execute, h] <;> simp [push, poisoned, recordErr, *]
  | finish =>
    obtain ⟨he, h⟩ | ⟨he, ha, h⟩ | ⟨he, ha, h⟩ := finish_cases e <;>
      rw [execute, execute, h] <;> simp [finish, poisoned, recordErr, closeKey, laneDigest, *]
  | abort => rfl

/-- `ISSUE m` on a free engine runs the command with the operands of the moment. -/
theorem afterLines_issueLines (idle : e.pending = none) (i : Instr) :
    e.afterLines (issueLines i) = e.execute (e.latch i) := by
  obtain ⟨_, _, _, _, _, _, _, _, writes⟩ := execute_writes (e.latch i) e
  have keeps : (e.execute (e.latch i)).pending = none := by rw [writes, idle]
  simp only [issueLines, waitLines, afterLines_cons, afterLines_nil, afterLine, issue_encode idle, settle]
  rw [execute_with_pending, ← keeps]

/-- START of a key with legal operands. -/
theorem start_of_legal {k size : Word} (seed : Word) (noError : e.errcode = .noError) (hk : k ≠ 0#32) (hK : k.toNat ≤ K)
    (hsize : size ≠ 0#32) : e.start k size seed = e.beginKey k size seed := by
  simp [start, poisoned, noError, hk, hsize, Nat.not_lt.mpr hK]

/-- PUSH in ABSORB with room for the bytes. -/
theorem push_of_room {cnt : BitVec 2} (data : Word) (noError : e.errcode = .noError) (absorb : e.phase = .absorb)
    (room : e.key.length + pushCount cnt ≤ maxKeyLength) :
    e.push cnt data = { e with key := e.key ++ pushBytes cnt data } := by
  simp [push, poisoned, noError, absorb, Nat.not_lt.mpr room]

/-- FINISH in ABSORB. -/
theorem finish_of_absorb (noError : e.errcode = .noError) (absorb : e.phase = .absorb) : e.finish = e.closeKey := by
  simp [finish, poisoned, noError, absorb]

/-- One group of `PUSHKEY` appends the bytes that stand in the low lanes of its word. -/
theorem afterLines_pushGroup (idle : e.pending = none) (noError : e.errcode = .noError) (absorb : e.phase = .absorb)
    {cnt : BitVec 2} {data : Word} {group : List Byte} (bytes : pushBytes cnt data = group)
    (room : e.key.length + group.length ≤ maxKeyLength) :
    e.afterLines (.write 0x018#12 data :: issueLines (.push cnt)) =
      { e with keydata := data, key := e.key ++ group } := by
  subst bytes
  rw [pushBytes_length] at room
  exact (afterLines_issueLines (e := { e with keydata := data }) idle (.push cnt)).trans
    (push_of_room (e := { e with keydata := data }) data noError absorb room)

/-- `PUSHKEY b` appends the bytes of `b`. -/
theorem afterLines_pushKeyLines (b : List Byte) (idle : e.pending = none) (noError : e.errcode = .noError)
    (absorb : e.phase = .absorb) (room : e.key.length + b.length ≤ maxKeyLength) :
    ∃ keydata, e.afterLines (pushKeyLines b) = { e with key := e.key ++ b, keydata := keydata } := by
  fun_induction pushKeyLines b generalizing e with
  | case1 b0 b1 b2 b3 rest ih =>
    simp only [List.length_cons] at room
    have first := afterLines_pushGroup idle noError absorb (group := [b0, b1, b2, b3]) (pushBytes_le32 3#2 b0 b1 b2 b3)
      (by simp; omega)
    obtain ⟨keydata, others⟩ := ih (e := { e with keydata := le32 b0 b1 b2 b3, key := e.key ++ [b0, b1, b2, b3] })
      idle noError absorb (by simp; omega)
    exact ⟨keydata, by rw [afterLines_append, first, others]; simp⟩
  | case2 b0 b1 b2 => exact ⟨_, afterLines_pushGroup idle noError absorb (pushBytes_le32 2#2 b0 b1 b2 0) room⟩
  | case3 b0 b1 => exact ⟨_, afterLines_pushGroup idle noError absorb (pushBytes_le32 1#2 b0 b1 0 0) room⟩
  | case4 b0 => exact ⟨_, afterLines_pushGroup idle noError absorb (pushBytes_le32 0#2 b0 0 0 0) room⟩
  | case5 => exact ⟨e.keydata, by simp⟩

/-- The configuration and the START of `HASHKEY` begin the key. -/
theorem afterLines_beginLines {k size : Word} (seed : Word) (idle : e.pending = none) (noError : e.errcode = .noError)
    (hk : k ≠ 0#32) (hK : k.toNat ≤ K) (hsize : size ≠ 0#32) :
    e.afterLines (.write 0x00C#12 k :: .write 0x010#12 size :: .write 0x014#12 seed :: issueLines .start) =
      ({ e with cfgK := k, cfgSize := size, seed := seed } : Engine K).beginKey k size seed :=
  (afterLines_issueLines (e := { e with cfgK := k, cfgSize := size, seed := seed }) idle .start).trans
    (start_of_legal seed noError hk hK hsize)

/-- `HASHKEY b, k, size, seed` closes a key of the bytes of `b`, begun with the operands `k`, `size` and `seed`. -/
theorem afterLines_hashKeyLines (b : List Byte) {k size : Word} (seed : Word) (idle : e.pending = none)
    (noError : e.errcode = .noError) (hk : k ≠ 0#32) (hK : k.toNat ≤ K) (hsize : size ≠ 0#32)
    (room : b.length ≤ maxKeyLength) :
    ∃ filled : Engine K, e.afterLines (hashKeyLines b k size seed) = filled.closeKey ∧ filled.errcode = .noError ∧
      filled.key = b ∧ filled.actK = k ∧ filled.actSize = size ∧ filled.actSeed = seed := by
  have begun := afterLines_beginLines seed idle noError hk hK hsize
  obtain ⟨keydata, appended⟩ := afterLines_pushKeyLines b
    (e := ({ e with cfgK := k, cfgSize := size, seed := seed } : Engine K).beginKey k size seed) idle noError rfl
    (by simpa using room)
  rw [hashKeyLines, afterLines_append, afterLines_append, begun, appended]
  refine ⟨_, (afterLines_issueLines ?_ .finish).trans (finish_of_absorb ?_ ?_), ?_⟩
  · exact idle
  · exact noError
  · rfl
  · exact ⟨noError, rfl, rfl, rfl, rfl⟩

end Engine

end Sys2Proof.Machine

namespace Sys2Proof

open Machine

/-- Settles O49: PUSHKEY waits after every command, so it can end, and when it has, the engine is what its lines leave. -/
theorem pushKeyAppendsTheBytes : Obligations.PushKeyAppendsTheBytes := by
  intro s b values idle noError absorb room
  refine ⟨(waited_pushKeyLines b).canEnd idle values, fun turns r noReset run ended => ?_⟩
  obtain ⟨free, engine, named⟩ := (waited_pushKeyLines b).ended idle noReset run ended
  obtain ⟨keydata, appended⟩ := Engine.afterLines_pushKeyLines b idle noError absorb room
  rw [appended] at engine
  exact ⟨by simp [quiescent, free], by rw [engine], named⟩

/-- Settles O50: HASHKEY waits after every command, so when it has ended the engine is what its lines leave. -/
theorem hashKeyUnderEverySchedule : Obligations.HashKeyUnderEverySchedule := by
  intro s b k size seed values turns r idle noError hk hK hsize room noReset run ended
  obtain ⟨free, engine, -⟩ := (waited_hashKeyLines b k size seed).ended idle noReset run ended
  obtain ⟨e, lines, code, rfl, rfl, rfl, rfl⟩ := Engine.afterLines_hashKeyLines b seed idle noError hk hK hsize room
  rw [lines] at engine
  simp only [engine]
  refine ⟨by simp [quiescent, free], rfl, code, rfl, fun i h active => ⟨?_, ?_⟩⟩
  · rw [Engine.closeKey_digest, if_pos active]; rfl
  · rw [Engine.closeKey_bitidx, if_pos active, bitIndex_toNat _ hsize]; rfl

end Sys2Proof
end

section
/-! The command word (30_encoding.md R70 to R77): its fields and its legality as numbers, and the word each legal word is
the encoding of. -/

namespace Sys2Proof

open Machine

/-- OP is the word modulo 16 (30_encoding.md R70). -/
theorem opField_eq_iff (w : Word) (op : BitVec 4) : opField w = op ↔ w.toNat % 16 = op.toNat := by
  rw [opField, ← BitVec.toNat_inj, BitVec.extractLsb'_toNat, Nat.shiftRight_zero]

/-- RSV is zero exactly in a word below 64 (30_encoding.md R70). -/
theorem rsvField_eq_zero_iff (w : Word) : rsvField w = 0#26 ↔ w.toNat / 64 = 0 := by
  have bound := w.isLt
  rw [rsvField, ← BitVec.toNat_inj, BitVec.extractLsb'_toNat, Nat.shiftRight_eq_div_pow, BitVec.toNat_zero]
  omega

/-- RSV and CNT are zero exactly in a word below 16. -/
theorem aboveOp_eq_zero_iff (w : Word) : w.extractLsb' 4 28 = 0#28 ↔ w.toNat / 16 = 0 := by
  have bound := w.isLt
  rw [← BitVec.toNat_inj, BitVec.extractLsb'_toNat, Nat.shiftRight_eq_div_pow, BitVec.toNat_zero]
  omega

/-- `legal` of 30_encoding.md R73, in numbers. -/
theorem legal_iff (w : Word) :
    legal w = true ↔
      (w.toNat % 16 = 2 ∧ w.toNat / 64 = 0) ∨
      ((w.toNat % 16 = 0 ∨ w.toNat % 16 = 1 ∨ w.toNat % 16 = 3 ∨ w.toNat % 16 = 4) ∧ w.toNat / 16 = 0) := by
  simp only [legal, opField_eq_iff, BitVec.reduceToNat]
  by_cases push : w.toNat % 16 = 2
  · rw [if_pos push, beq_iff_eq, rsvField_eq_zero_iff]
    omega
  · rw [if_neg push]
    split
    case isTrue other =>
      rw [beq_iff_eq, aboveOp_eq_zero_iff]
      omega
    case isFalse unknown =>
      simp only [Bool.false_eq_true, false_iff]
      omega

/-- RSV and CNT of a legal word are zero unless OP is PUSH's (30_encoding.md R73). -/
theorem legal_above_zero {w : Word} (h : legal w = true) (notPush : w.toNat % 16 ≠ 2) : w.toNat / 16 = 0 := by
  have := (legal_iff w).mp h
  omega

/-- The word of a command, in numbers: OP in the low four bits and CNT above it (30_encoding.md R70). -/
theorem encode_toNat (i : Instr) : (encode i).toNat = 16 * i.cnt.toNat + i.op.toNat := by
  rw [encode, BitVec.toNat_append, BitVec.toNat_append, ← Nat.shiftLeft_add_eq_or_of_lt i.op.isLt]
  simp [Nat.shiftLeft_eq, Nat.mul_comm]

/-- The fields of a word make it a command's word. -/
theorem eq_encode_of_fields {w : Word} {i : Instr} (op : w.toNat % 16 = i.op.toNat) (cnt : w.toNat / 16 = i.cnt.toNat) :
    w = encode i := by
  rw [← BitVec.toNat_inj, encode_toNat]
  omega

/-- A legal word of an OP other than PUSH's is the word of the command of that OP. -/
theorem eq_encode_of_legal {w : Word} {i : Instr} (h : legal w = true) (op : w.toNat % 16 = i.op.toNat)
    (notPush : i.op.toNat ≠ 2) (cnt : i.cnt = 0#2) : w = encode i :=
  eq_encode_of_fields op (by rw [legal_above_zero h (op ▸ notPush), cnt, BitVec.toNat_zero])

/-- A legal word of PUSH's OP is the word of the PUSH with its CNT (30_encoding.md R72). -/
theorem eq_encode_push_of_legal {w : Word} (h : legal w = true) (op : w.toNat % 16 = 2) :
    w = encode (.push (BitVec.ofNat 2 (w.toNat / 16))) := by
  have below : w.toNat / 64 = 0 := by
    have := (legal_iff w).mp h
    omega
  refine eq_encode_of_fields op ?_
  rw [Instr.cnt, BitVec.toNat_ofNat]
  omega

/-- Every legal word is some command's word. -/
theorem exists_encode_of_legal {w : Word} (h : legal w = true) : ∃ i, w = encode i := by
  obtain ⟨push, -⟩ | ⟨nop | start | finish | abort, -⟩ := (legal_iff w).mp h
  · exact ⟨_, eq_encode_push_of_legal h push⟩
  · exact ⟨.nop, eq_encode_of_legal h nop (by decide) rfl⟩
  · exact ⟨.start, eq_encode_of_legal h start (by decide) rfl⟩
  · exact ⟨.finish, eq_encode_of_legal h finish (by decide) rfl⟩
  · exact ⟨.abort, eq_encode_of_legal h abort (by decide) rfl⟩

/-- A word that decodes is legal (30_encoding.md R73). -/
theorem legal_of_decode {w : Word} {i : Instr} (h : decode w = .ok i) : legal w = true := by
  refine Bool.of_not_eq_false fun illegal => ?_
  obtain ⟨r, rejected⟩ := decode_error_iff.mpr illegal
  cases h.symm.trans rejected

/-- The legal words are the commands' words. -/
theorem legal_iff_exists_encode (w : Word) : legal w = true ↔ ∃ i, w = encode i := by
  refine ⟨exists_encode_of_legal, ?_⟩
  rintro ⟨i, rfl⟩
  exact legal_of_decode (decode_encode i)

/-- The command forms of 30_encoding.md R77, in the order of their words in R73. -/
def commandForms : List Instr := [.nop, .start, .push 0#2, .push 1#2, .push 2#2, .push 3#2, .finish, .abort]

/-- The words of the command forms, written out (30_encoding.md R73, R77). -/
theorem commandForms_map_encode :
    commandForms.map encode = [0x00000000#32, 0x00000001#32, 0x00000002#32, 0x00000012#32, 0x00000022#32, 0x00000032#32,
      0x00000003#32, 0x00000004#32] := rfl

/-- There are no other commands. -/
theorem mem_commandForms (i : Instr) : i ∈ commandForms := by
  cases i with
  | push cnt =>
    have pushes : ∀ cnt : BitVec 2, Instr.push cnt ∈ commandForms := by decide
    exact pushes cnt
  | nop => decide
  | start => decide
  | finish => decide
  | abort => decide

/-- The legal words are the words of the command forms. -/
theorem legal_iff_mem (w : Word) : legal w = true ↔ w ∈ commandForms.map encode := by
  rw [legal_iff_exists_encode, List.mem_map]
  constructor
  · rintro ⟨i, rfl⟩
    exact ⟨i, mem_commandForms i, rfl⟩
  · rintro ⟨i, -, rfl⟩
    exact ⟨i, rfl⟩

end Sys2Proof

namespace Sys2Proof.Machine

namespace Engine

variable {K : Nat}

/-- An illegal word issued to a free engine: the first error is recorded, and the word is dropped (60_exceptions.md R163). -/
theorem issue_of_rejected {e : Engine K} {w : Word} {r : Illegal} (free : e.pending = none)
    (rejected : decode w = .error r) :
    e.issue w = { e with errcode := if e.errcode = .noError then .illegal else e.errcode } := by
  have recorded : e.issue w = e.recordErr .illegal := by simp [issue, free, rejected]
  rw [recorded]
  by_cases clean : e.errcode = .noError
  · rw [recordErr_of_noError _ clean, if_pos clean]
  · rw [recordErr_of_error _ clean, if_neg clean]

end Engine

end Sys2Proof.Machine

namespace Sys2Proof

open Machine

/-- Settles O2: a word that decodes is legal, so it is some command's word, and the decoder inverts the encoder. -/
theorem decodeInvertsEncode : Obligations.DecodeInvertsEncode := by
  intro w i
  constructor
  · intro h
    obtain ⟨j, rfl⟩ := exists_encode_of_legal (legal_of_decode h)
    obtain rfl : j = i := by simpa [decode_encode] using h
    rfl
  · rintro rfl
    exact decode_encode i

/-- Settles O3: a legal word is the word of the command that its fields name, and the decoder inverts the encoder. -/
theorem decoderFollowsLegality : Obligations.DecoderFollowsLegality := by
  intro w
  have decodes {i : Instr} (h : w = encode i) : decode w = .ok i := (decodeInvertsEncode w i).mpr h
  refine ⟨legal_iff w, decode_error_iff.mpr, fun h op => decodes ?nop, fun h op => decodes ?start,
    fun h op => decodes ?push, fun h op => decodes ?finish, fun h op => decodes ?abort, ?words⟩
  case nop => exact eq_encode_of_legal h op (by decide) rfl
  case start => exact eq_encode_of_legal h op (by decide) rfl
  case push => exact eq_encode_push_of_legal h op
  case finish => exact eq_encode_of_legal h op (by decide) rfl
  case abort => exact eq_encode_of_legal h op (by decide) rfl
  case words => rw [legal_iff_mem, commandForms_map_encode]

/-- Settles O4: the rejected words are those that are not legal, and a write to CMD is an issue. -/
theorem illegalWordsAreDropped : Obligations.IllegalWordsAreDropped := by
  constructor
  · intro w
    rw [decode_error_iff, ← Bool.not_eq_true, legal_iff]
    omega
  · intro s w r rest rejected hs free
    rw [step_write rfl hs, regWrite_cmd, Engine.issue_of_rejected free rejected]

/-- Settles O1: R77's words are the encodings of the command forms, and the decoder inverts the encoder. -/
theorem commandWordsDecode : Obligations.CommandWordsDecode :=
  ⟨decode_encode .nop, decode_encode .start, decode_encode (.push 0#2),
    decode_encode (.push 1#2), decode_encode (.push 2#2), decode_encode (.push 3#2),
    decode_encode .finish, decode_encode .abort⟩

end Sys2Proof
end

section
/-! The hash over whole chunks and a tail (40_murmur3_hash.md R102 to R113). -/

namespace Sys2Proof.Machine

/-- The lanes of a little-endian word do not overlap, so xor assembles them as or does (40_murmur3_hash.md R107). -/
theorem le32_eq_xor (a b c d : Byte) :
    le32 a b c d =
      d.setWidth 32 <<< 24 ^^^ c.setWidth 32 <<< 16 ^^^ b.setWidth 32 <<< 8 ^^^ a.setWidth 32 := by
  refine BitVec.eq_of_getLsbD_eq fun i hi => ?_
  simp only [le32, BitVec.getLsbD_or, BitVec.getLsbD_xor, BitVec.getLsbD_shiftLeft, BitVec.getLsbD_setWidth]
  grind

/-- The body loop over chunks that end inside `key` does not see what is appended after it. -/
theorem foldl_chunk_append (key more : List Byte) (seed : Word) {n : Nat} (inside : 4 * n ≤ key.length) :
    (List.range n).foldl (fun h b => blockStep h (chunk (key ++ more) b)) seed =
      (List.range n).foldl (fun h b => blockStep h (chunk key b)) seed := by
  induction n with
  | zero => simp only [List.range_zero, List.foldl_nil]
  | succ n ih =>
    simp only [List.range_succ, List.foldl_append, List.foldl_cons, List.foldl_nil]
    rw [ih (by omega), chunk_append (by omega)]

/-- The chunks of `key` are the first chunks of every key that starts with it. -/
theorem bodyHash_eq_foldl_append (key more : List Byte) (seed : Word) :
    (List.range (nblocks key)).foldl (fun h b => blockStep h (chunk (key ++ more) b)) seed = bodyHash key seed :=
  foldl_chunk_append key more seed (Nat.mul_div_le key.length 4)

section

variable {key tail : List Byte} (whole : key.length % 4 = 0) (short : tail.length < 4)
include whole

/-- The next four bytes are one more chunk, taken last (40_murmur3_hash.md R104 to R106). -/
theorem bodyHash_append_chunk (a b c d : Byte) (seed : Word) :
    bodyHash (key ++ [a, b, c, d]) seed = blockStep (bodyHash key seed) (le32 a b c d) := by
  have blocks : nblocks (key ++ [a, b, c, d]) = nblocks key + 1 := by simp [nblocks]
  have start : 4 * nblocks key = key.length := by unfold nblocks; omega
  have last : chunk (key ++ [a, b, c, d]) (nblocks key) = le32 a b c d := by simp [chunk, start]
  rw [bodyHash, blocks, List.range_succ, List.foldl_append, bodyHash_eq_foldl_append, List.foldl_cons,
    List.foldl_nil, last]

include short

/-- A tail completes no chunk (40_murmur3_hash.md R105). -/
theorem nblocks_append_tail : nblocks (key ++ tail) = nblocks key := by
  simp only [nblocks, List.length_append]; omega

/-- The body loop does not see the tail (40_murmur3_hash.md R106). -/
theorem bodyHash_append_tail (seed : Word) : bodyHash (key ++ tail) seed = bodyHash key seed := by
  rw [bodyHash, nblocks_append_tail whole short, bodyHash_eq_foldl_append]

/-- The tail value is the little-endian word of the tail's bytes (40_murmur3_hash.md R107). -/
theorem tailValue_append_tail :
    tailValue (key ++ tail) = le32 (tail.getD 0 0) (tail.getD 1 0) (tail.getD 2 0) (tail.getD 3 0) := by
  have count : (key ++ tail).length % 4 = tail.length := by rw [List.length_append]; omega
  have start : 4 * nblocks (key ++ tail) = key.length := by rw [nblocks_append_tail whole short, nblocks]; omega
  rw [tailValue, count, start, le32_eq_xor]
  match tail, short with
  | [], _ => simp
  | [a], _ => simp
  | [a, b], _ => simp [List.range_succ]
  | [a, b, c], _ => simp [List.range_succ]

/-- The hash of whole chunks and a tail (40_murmur3_hash.md R108, R109, R111). -/
theorem hash32_append_tail (seed : Word) :
    hash32 (key ++ tail) seed =
      fmix (bodyHash key seed ^^^ mixK (le32 (tail.getD 0 0) (tail.getD 1 0) (tail.getD 2 0) (tail.getD 3 0)) ^^^
        BitVec.ofNat 32 (key.length + tail.length)) := by
  rw [hash32, bodyHash_append_tail whole short, tailValue_append_tail whole short, List.length_append]

end

/-- What the streaming state of R113 stands for: the key appended so far is whole chunks, already taken into the running
hash, and the pending bytes. -/
def Stream.Holds (seed : Word) (key : List Byte) (s : Stream) : Prop :=
  ∃ whole tail, key = whole ++ tail ∧ whole.length % 4 = 0 ∧ tail.length < 4 ∧
    s = ⟨tail, BitVec.ofNat 32 key.length, bodyHash whole seed⟩

theorem streamStart_holds (seed : Word) : (streamStart seed).Holds seed [] :=
  ⟨[], [], rfl, rfl, by decide, by rw [bodyHash_short (by decide)]; rfl⟩

/-- A byte with fewer than three pending waits with them. -/
theorem streamAppend_of_room {s : Stream} (room : s.buf.length < 3) (b : Byte) :
    streamAppend s b = ⟨s.buf ++ [b], s.len + 1#32, s.h⟩ := by
  unfold streamAppend
  split
  · next full => simp [full] at room
  · rfl

/-- A byte either waits, or completes a chunk with three that waited. -/
theorem Stream.Holds.append {seed : Word} {key : List Byte} {s : Stream} (holds : s.Holds seed key) (b : Byte) :
    (streamAppend s b).Holds seed (key ++ [b]) := by
  obtain ⟨whole, tail, rfl, hwhole, short, rfl⟩ := holds
  have len : BitVec.ofNat 32 (whole ++ tail).length + 1#32 = BitVec.ofNat 32 (whole ++ tail ++ [b]).length := by
    rw [List.length_append (bs := [b]), BitVec.ofNat_add]; rfl
  obtain room | full : tail.length < 3 ∨ tail.length = 3 := by omega
  · exact ⟨whole, tail ++ [b], List.append_assoc .., hwhole, by simpa using Nat.succ_lt_succ room,
      by rw [streamAppend_of_room room, len]⟩
  · match tail, full with
    | [b0, b1, b2], _ =>
      refine ⟨whole ++ [b0, b1, b2, b], [], by simp, by simp [hwhole], by decide, ?_⟩
      rw [bodyHash_append_chunk hwhole, ← len]
      rfl

/-- Appending bytes one by one keeps what the streaming state stands for. -/
theorem Stream.Holds.foldl {seed : Word} {key : List Byte} {s : Stream} (holds : s.Holds seed key) (more : List Byte) :
    (more.foldl streamAppend s).Holds seed (key ++ more) := by
  induction more generalizing s key with
  | nil => rw [List.append_nil]; exact holds
  | cons b more ih => rw [List.append_cons]; exact ih (holds.append b)

theorem Stream.Holds.finish {seed : Word} {key : List Byte} {s : Stream} (holds : s.Holds seed key) :
    streamFinish s = hash32 key seed := by
  obtain ⟨whole, tail, rfl, hwhole, short, rfl⟩ := holds
  rw [hash32_append_tail hwhole short, streamFinish, List.length_append]

end Sys2Proof.Machine

namespace Sys2Proof

open Machine

/-- Settles O5: the formula is the definition. -/
theorem chunkMixValues : Obligations.ChunkMixValues :=
  ⟨fun _ => rfl, mixK_zero, by decide, by decide, by decide⟩

/-- Settles O6: the formula is the definition. -/
theorem bodyMixValues : Obligations.BodyMixValues :=
  ⟨fun _ => rfl, by decide, by decide, by decide, by decide⟩

/-- Settles O7: the steps are those of the definition. -/
theorem finalizerValues : Obligations.FinalizerValues := by
  refine ⟨?_, fmix_zero, by decide, by decide, by decide⟩
  rintro h0 _ _ _ _ rfl rfl rfl rfl
  rfl

/-- Settles O8: the tail is not seen, and the chunk before it is taken last. -/
theorem bodyTakesChunksInOrder : Obligations.BodyTakesChunksInOrder := by
  refine ⟨fun key seed short => bodyHash_short short seed, fun key a b c d tail seed whole short => ?_⟩
  rw [bodyHash_append_tail (by simp [whole]) short, bodyHash_append_chunk whole]
  rfl

/-- Settles O9: each length of tail is a case of the tail's little-endian word. -/
theorem tailIsLittleEndian : Obligations.TailIsLittleEndian := by
  intro key whole
  refine ⟨?_, fun a => ?_, fun a b => ?_, fun a b c => ?_⟩
  · simpa [le32] using tailValue_append_tail (tail := []) whole (by decide)
  · exact tailValue_append_tail whole (by simp)
  · exact tailValue_append_tail whole (by simp)
  · exact tailValue_append_tail whole (by simp)

/-- Settles O10: each length of tail is a case of the hash of whole chunks and a tail, and an empty tail mixes in nothing. -/
theorem hashOfChunksAndTail : Obligations.HashOfChunksAndTail := by
  refine ⟨fun key seed whole => ⟨?_, fun a => ?_, fun a b => ?_, fun a b c => ?_⟩, fun seed => ?_, by decide, by decide,
    by decide⟩
  · rw [hash32, (tailIsLittleEndian key whole).1, mixK_zero, BitVec.xor_zero]
  · exact hash32_append_tail whole (by simp) seed
  · exact hash32_append_tail whole (by simp) seed
  · exact hash32_append_tail whole (by simp) seed
  · simp [hash32, bodyHash_short, tailValue, mixK_zero]

/-- Settles O11: appending keeps what the streaming state stands for, and finishing it gives the hash. -/
theorem streamingEqualsHash : Obligations.StreamingEqualsHash :=
  fun key seed => ((streamStart_holds seed).foldl key).finish

end Sys2Proof
end

section
/-! Commands run one after the other, and the pairs BLOOM reads off the lanes (41_address_decoder.md R123 to R128,
42_commands.md R142 to R147). -/

namespace Sys2Proof.Machine

/-- The byte index as a number (41_address_decoder.md R123). -/
theorem bucketIndex_toNat (b : Word) : (bucketIndex b).toNat = b.toNat / 8 := by
  have := b.isLt
  simp only [bucketIndex, BitVec.extractLsb'_toNat, Nat.shiftRight_eq_div_pow]
  omega

/-- The bit position as a number (41_address_decoder.md R123). -/
theorem bucketPosition_toNat (b : Word) : (bucketPosition b).toNat = b.toNat % 8 := by
  simp [bucketPosition]

/-- The pairs read off the bit address of a digest are BLOOM's (41_address_decoder.md R128). -/
theorem buckets_getElem? {k i : Nat} (active : i < k) {size : Word} (hsize : size ≠ 0#32) (x : List Byte) :
    (buckets k size.toNat x)[i]? =
      some ((bucketIndex (bitIndex (hash32 x (BitVec.ofNat 32 i)) size)).toNat,
        (bucketPosition (bitIndex (hash32 x (BitVec.ofNat 32 i)) size)).toNat) := by
  simp [buckets, active, bucketIndex_toNat, bucketPosition_toNat, bitIndex_toNat _ hsize, Nat.mul_comm]

namespace Engine

variable {K : Nat} {e : Engine K}

/-- The engine after a command run alone: its effect, then PENDING <- none (`runCommand_eq`). -/
def afterCommand (e : Engine K) (c : Command) : Engine K := { e.execute c with pending := none }

/-- The engine after commands run one after the other (`runCommands_eq`). -/
def afterCommands (e : Engine K) (commands : List Command) : Engine K := commands.foldl afterCommand e

@[simp] theorem afterCommands_nil (e : Engine K) : e.afterCommands [] = e := rfl

@[simp] theorem afterCommands_cons (e : Engine K) (c : Command) (commands : List Command) :
    e.afterCommands (c :: commands) = (e.afterCommand c).afterCommands commands := rfl

@[simp] theorem afterCommands_append (e : Engine K) (a b : List Command) :
    e.afterCommands (a ++ b) = (e.afterCommands a).afterCommands b := List.foldl_append

/-- START with legal operands begins the key (42_commands.md R145). -/
theorem afterCommand_start {k size : Word} (seed : Word) (noError : e.errcode = .noError) (hk : k ≠ 0#32)
    (hK : k.toNat ≤ K) (hsize : size ≠ 0#32) :
    e.afterCommand (.start k size seed) = ({ e with pending := none } : Engine K).beginKey k size seed := by
  rw [afterCommand, execute, start_of_legal seed noError hk hK hsize]; rfl

/-- PUSH with room for its bytes appends them (42_commands.md R146). -/
theorem afterCommand_push {cnt : BitVec 2} (data : Word) (idle : e.pending = none) (noError : e.errcode = .noError)
    (absorb : e.phase = .absorb) (room : e.key.length + pushCount cnt ≤ maxKeyLength) :
    e.afterCommand (.push cnt data) = { e with key := e.key ++ pushBytes cnt data } := by
  rw [afterCommand, execute, push_of_room data noError absorb room, ← idle]

/-- FINISH closes the key (42_commands.md R147). -/
theorem afterCommand_finish (idle : e.pending = none) (noError : e.errcode = .noError) (absorb : e.phase = .absorb) :
    e.afterCommand .finish = e.closeKey := by
  have free : e.closeKey.pending = none := idle
  rw [afterCommand, execute, finish_of_absorb noError absorb, ← free]

/-- PUSHes with room for all their bytes append them in order. -/
theorem afterCommands_pushes (pushes : List (BitVec 2 × Word)) (idle : e.pending = none) (noError : e.errcode = .noError)
    (absorb : e.phase = .absorb)
    (room : e.key.length + (pushes.flatMap fun p => pushBytes p.1 p.2).length ≤ maxKeyLength) :
    e.afterCommands (pushes.map fun p => .push p.1 p.2) =
      { e with key := e.key ++ pushes.flatMap fun p => pushBytes p.1 p.2 } := by
  induction pushes generalizing e with
  | nil => simp
  | cons p pushes ih =>
    rw [List.flatMap_cons, List.length_append, pushBytes_length] at room
    have first := afterCommand_push p.2 idle noError absorb (cnt := p.1) (by omega)
    have others := ih (e := { e with key := e.key ++ pushBytes p.1 p.2 }) idle noError absorb
      (by rw [List.length_append, pushBytes_length]; omega)
    rw [List.map_cons, afterCommands_cons, first, others, List.flatMap_cons, List.append_assoc]

/-- START, PUSHes and FINISH close a key of the bytes pushed, begun with START's operands and with every lane 0. -/
theorem afterCommands_wholeKey {k size : Word} (seed : Word) (pushes : List (BitVec 2 × Word))
    (noError : e.errcode = .noError) (hk : k ≠ 0#32) (hK : k.toNat ≤ K) (hsize : size ≠ 0#32)
    (room : (pushes.flatMap fun p => pushBytes p.1 p.2).length ≤ maxKeyLength) :
    ∃ filled : Engine K,
      e.afterCommands (.start k size seed :: pushes.map (fun p => .push p.1 p.2) ++ [.finish]) = filled.closeKey ∧
      filled.errcode = .noError ∧ filled.pending = none ∧ filled.LanesZero ∧
      filled.key = (pushes.flatMap fun p => pushBytes p.1 p.2) ∧
      filled.actK = k ∧ filled.actSize = size ∧ filled.actSeed = seed := by
  have begun := afterCommand_start seed noError hk hK hsize
  have appended := afterCommands_pushes pushes
    (e := ({ e with pending := none } : Engine K).beginKey k size seed) rfl noError rfl (by simpa using room)
  rw [List.cons_append, afterCommands_cons, begun, afterCommands_append, appended]
  refine ⟨_, afterCommand_finish ?_ ?_ ?_, ?_⟩
  · rfl
  · exact noError
  · rfl
  · exact ⟨noError, rfl, lanesZero_of_replicate rfl rfl, rfl, rfl, rfl, rfl⟩

end Engine

/-- One latched command alone: its effect, whatever was pending before, then PENDING <- none (42_commands.md R142). -/
theorem runCommand_eq (c : Command) (s : State) :
    runCommand c s = .next { s with toEngine := s.toEngine.afterCommand c } := by
  rw [runCommand, engineTurn_effect (c := c) rfl, Engine.execute_with_pending]; rfl

/-- Commands one after the other never stop. -/
theorem runCommands_eq (commands : List Command) (s : State) :
    runCommands commands s = .next { s with toEngine := s.toEngine.afterCommands commands } := by
  induction commands generalizing s with
  | nil => rfl
  | cons c commands ih => rw [runCommands, runCommand_eq]; exact ih _

end Sys2Proof.Machine

namespace Sys2Proof

open Machine

/-- Settles O47: the commands close a key of the bytes pushed, and the pairs of its bit addresses are BLOOM's. -/
theorem commandsComputeBuckets : Obligations.CommandsComputeBuckets := by
  rintro s k size seed pushes x noError hk hK hsize rfl room
  obtain ⟨filled, run, code, idle, zero, key, rfl, rfl, rfl⟩ :=
    Engine.afterCommands_wholeKey seed pushes noError hk hK hsize room
  refine ⟨_, runCommands_eq _ s, ?_⟩
  rw [run]
  refine ⟨rfl, code, idle, key, rfl, fun i h active => ?digests, fun i h inactive => ?zeros, fun seedZero => ?pairs⟩
  case digests =>
    rw [Engine.closeKey_digest, if_pos active, Engine.laneDigest, key]; rfl
  case zeros =>
    rw [Engine.closeKey_digest, Engine.closeKey_bitidx, if_neg (Nat.not_lt.mpr inactive),
      if_neg (Nat.not_lt.mpr inactive)]
    exact zero i h
  case pairs =>
    refine ⟨by simp [buckets], fun i h active => ?_⟩
    rw [buckets_getElem? active hsize, Engine.closeKey_bitidx, if_pos active, Engine.laneDigest, key, laneSeed, seedZero,
      BitVec.zero_add]
    rfl

end Sys2Proof
end

section
/-! The address decoder (41_address_decoder.md R120 to R127): the range of a bit address, its corner cases, the rounds
of a pass, and what STATUS says of the lanes. -/

namespace Sys2Proof.Machine

/-- The number of bits a nonzero size stands for is not 0 (41_address_decoder.md R121). -/
theorem bits_pos {size : Word} (hsize : size ≠ 0#32) : 0 < 8 * size.toNat :=
  Nat.mul_pos (by decide) (BitVec.toNat_pos_of_ne_zero hsize)

/-- The bit address lies in the bit array (41_address_decoder.md R122). -/
theorem bitIndex_lt (d : Word) {size : Word} (hsize : size ≠ 0#32) : (bitIndex d size).toNat < 8 * size.toNat := by
  rw [bitIndex_toNat d hsize]
  exact Nat.mod_lt _ (bits_pos hsize)

/-- The reduction never increases a digest (41_address_decoder.md R122). -/
theorem bitIndex_le (d : Word) {size : Word} (hsize : size ≠ 0#32) : (bitIndex d size).toNat ≤ d.toNat := by
  rw [bitIndex_toNat d hsize]
  exact Nat.mod_le _ _

/-- A digest below the number of bits is its own bit address (41_address_decoder.md R122). -/
theorem bitIndex_of_lt {d size : Word} (hsize : size ≠ 0#32) (small : d.toNat < 8 * size.toNat) :
    bitIndex d size = d := by
  apply BitVec.eq_of_toNat_eq
  rw [bitIndex_toNat d hsize, Nat.mod_eq_of_lt small]

/-- With one byte the bit address is the low three bits of the digest (41_address_decoder.md R122). -/
theorem bitIndex_one (d : Word) : bitIndex d 1#32 = d &&& 7#32 := by
  apply BitVec.eq_of_toNat_eq
  rw [bitIndex_toNat d (by decide), BitVec.toNat_and]
  exact (Nat.and_two_pow_sub_one_eq_mod d.toNat 3).symm

/-- A bit address below 8 times a size has its byte index below that size (41_address_decoder.md R124). -/
theorem bucketIndex_lt {b : Word} {size : Nat} (h : b.toNat < 8 * size) : (bucketIndex b).toNat < size := by
  rw [bucketIndex_toNat]
  exact Nat.div_lt_of_lt_mul h

/-- Lane seeds count on from ACT_SEED modulo 2^32 (41_address_decoder.md R120, R127). -/
theorem laneSeed_ofNat (first i : Nat) : laneSeed (BitVec.ofNat 32 first) i = BitVec.ofNat 32 (first + i) :=
  (BitVec.ofNat_add first i).symm

namespace Engine

variable {K : Nat}

/-- What FINISH leaves in the active lanes are the results of KEY (42_commands.md R147). -/
theorem closeKey_resultsOfKey (e : Engine K) : e.closeKey.ResultsOfKey := by
  intro _ i h active
  rw [closeKey_actK] at active
  rw [closeKey_digest, closeKey_bitidx, if_pos active, if_pos active]
  exact ⟨rfl, fun hsize => bitIndex_toNat _ hsize⟩

/-- STATUS while idle is 4 exactly in DONE without an error (10_state.md R28 to R30, 30_encoding.md R80). -/
theorem statusIdle_eq_four_iff (e : Engine K) :
    e.statusIdle = 0x00000004#32 ↔ e.phase = .done ∧ e.errcode = .noError := by
  unfold statusIdle
  cases e.phase <;> cases e.errcode <;> decide

/-- In DONE every active lane holds the digest of KEY, its reduction, and a byte index in range. -/
theorem Inv.active_lane {e : Engine K} (inv : e.Inv) (results : e.ResultsOfKey) (done : e.phase = .done) {i : Nat}
    (h : i < K) (active : i < e.actK.toNat) :
    e.digest[i] = hash32 e.key (laneSeed e.actSeed i) ∧
    e.bitidx[i].toNat = e.digest[i].toNat % (8 * e.actSize.toNat) ∧
    (bucketIndex e.bitidx[i]).toNat < e.actSize.toNat := by
  obtain ⟨-, -, size⟩ := inv.operands (by rw [done]; decide)
  obtain ⟨digest, reduced⟩ := results done i h active
  obtain ⟨below, -⟩ := inv.inRange done i h active
  have hsize : e.actSize ≠ 0#32 := by rintro h0; simp [h0] at size
  exact ⟨digest, by rw [reduced hsize, digest], bucketIndex_lt below⟩

end Engine
end Sys2Proof.Machine

namespace Sys2Proof

open Machine

/-- Settles O12: the reduction is the remainder by the number of bits, and from 2^29 bytes on that number exceeds every
digest. -/
theorem reductionModuloBits : Obligations.ReductionModuloBits := by
  refine ⟨fun d size hsize => ⟨bitIndex_toNat d hsize, bitIndex_lt d hsize, bitIndex_le d hsize, ?one, ?zero,
    bitIndex_of_lt hsize, ?large⟩, by decide⟩
  case one =>
    rintro rfl
    exact bitIndex_one d
  case zero =>
    rintro rfl
    exact bitIndex_of_lt hsize (bits_pos hsize)
  case large =>
    intro large
    have := d.isLt
    exact bitIndex_of_lt hsize (by omega)

/-- Settles O13: index and position are quotient and remainder by 8, so a reduced digest's index is below the size. -/
theorem indexAndPositionInRange : Obligations.IndexAndPositionInRange := by
  refine ⟨fun b => ⟨bucketIndex_toNat b, bucketPosition_toNat b, ?_⟩, by decide, by decide, fun d size hsize =>
    ⟨Nat.le_of_lt_succ (bucketPosition _).isLt, bucketIndex_lt (bitIndex_lt d hsize),
      Nat.le_of_lt_succ (bucketIndex _).isLt⟩⟩
  rw [bucketIndex_toNat, bucketPosition_toNat]
  exact (Nat.div_add_mod' b.toNat 8).symm

/-- Settles O14: FINISH leaves the results of KEY, and the seed of lane `i` is that of round `p * K_MAX + i`. -/
theorem passesCountRounds : Obligations.PassesCountRounds := by
  refine ⟨by decide, by decide, by decide, fun p i e h seed active => ?_⟩
  rw [← laneSeed_ofNat, ← seed]
  exact e.closeKey_resultsOfKey rfl i h active

/-- Settles O46: the read returns STATUS as it is while idle, 4 says DONE without an error, and there the invariants
tell what the lanes hold. -/
theorem statusFourMeansValidResults : Obligations.StatusFourMeansValidResults := by
  intro s t rest inv results idle hs h read
  rw [step_read (by decide) hs] at h
  cases h
  have four : s.toEngine.statusIdle = 0x00000004#32 :=
    (Engine.regRead_status_idle idle _).symm.trans (Option.some.inj read)
  obtain ⟨done, noError⟩ := s.toEngine.statusIdle_eq_four_iff.mp four
  exact ⟨done, noError, fun i h active => inv.active_lane results done h active⟩

end Sys2Proof
end

section
/-! Each command case by case (42_commands.md R143 to R148): poisoned, wrong, and as it is meant. -/

namespace Sys2Proof.Machine

namespace Engine

variable {K : Nat} {e : Engine K}

/-- A poisoned engine skips START (42_commands.md R143, R145). -/
theorem start_of_error (k size seed : Word) (poison : e.errcode ≠ .noError) : e.start k size seed = e :=
  if_pos (e.poisoned_iff.mpr poison)

/-- A poisoned engine skips PUSH (42_commands.md R143, R146). -/
theorem push_of_error (cnt : BitVec 2) (data : Word) (poison : e.errcode ≠ .noError) : e.push cnt data = e :=
  if_pos (e.poisoned_iff.mpr poison)

/-- A poisoned engine skips FINISH (42_commands.md R143, R147). -/
theorem finish_of_error (poison : e.errcode ≠ .noError) : e.finish = e :=
  if_pos (e.poisoned_iff.mpr poison)

/-- A poisoned engine skips every command but ABORT; NOP has no effect to skip (42_commands.md R143). -/
theorem execute_of_error (poison : e.errcode ≠ .noError) {c : Command} (notAbort : c ≠ .abort) : e.execute c = e := by
  cases c with
  | nop => rfl
  | start k size seed => exact start_of_error k size seed poison
  | push cnt data => exact push_of_error cnt data poison
  | finish => exact finish_of_error poison
  | abort => exact absurd rfl notAbort

/-- An issue never takes an error back (60_exceptions.md R161). -/
theorem issue_errcode_of_error (poison : e.errcode ≠ .noError) (w : Word) : (e.issue w).errcode = e.errcode := by
  obtain ⟨-, h⟩ | ⟨-, -, h⟩ | ⟨_, -, -, h⟩ := issue_cases e w
  · rw [h, recordErr_of_error _ poison]
  · rw [h, recordErr_of_error _ poison]
  · rw [h]

/-- No register write takes an error back. -/
theorem regWrite_errcode_of_error (poison : e.errcode ≠ .noError) (off : Offset) (v : Word) :
    (e.regWrite off v).errcode = e.errcode := by
  by_cases hcmd : off = 0x000#12
  · rw [hcmd, regWrite_cmd, issue_errcode_of_error poison]
  · exact (e.regWrite_of_ne_cmd v hcmd).right

/-- START with an illegal `k` (42_commands.md R145). -/
theorem start_of_illegal_k {k : Word} (size seed : Word) (noError : e.errcode = .noError)
    (illegal : k = 0#32 ∨ K < k.toNat) : e.start k size seed = { e with errcode := .cfgK } := by
  simp [start, poisoned, noError, illegal, recordErr]

/-- START with a legal `k` and the size 0 (42_commands.md R145). -/
theorem start_of_size_zero {k : Word} (seed : Word) (noError : e.errcode = .noError) (hk : k ≠ 0#32)
    (hK : k.toNat ≤ K) : e.start k 0#32 seed = { e with errcode := .cfgSize } := by
  simp [start, poisoned, noError, hk, Nat.not_lt.mpr hK, recordErr]

/-- PUSH outside ABSORB (42_commands.md R146). -/
theorem push_of_not_absorb (cnt : BitVec 2) (data : Word) (noError : e.errcode = .noError) (phase : e.phase ≠ .absorb) :
    e.push cnt data = { e with errcode := .seq } := by
  simp [push, poisoned, noError, phase, recordErr]

/-- PUSH in ABSORB beyond the longest key (42_commands.md R146). -/
theorem push_of_no_room {cnt : BitVec 2} (data : Word) (noError : e.errcode = .noError) (absorb : e.phase = .absorb)
    (long : maxKeyLength < e.key.length + pushCount cnt) : e.push cnt data = { e with errcode := .len } := by
  simp [push, poisoned, noError, absorb, long, recordErr]

/-- FINISH outside ABSORB (42_commands.md R147). -/
theorem finish_of_not_absorb (noError : e.errcode = .noError) (phase : e.phase ≠ .absorb) :
    e.finish = { e with errcode := .seq } := by
  simp [finish, poisoned, noError, phase, recordErr]

end Engine

/-- PUSH takes the first byte lanes of its data, from the least significant up (42_commands.md R146). -/
theorem pushBytes_eq_take (cnt : BitVec 2) (data : Word) :
    pushBytes cnt data = [data.extractLsb' 0 8, data.extractLsb' 8 8, data.extractLsb' 16 8,
      data.extractLsb' 24 8].take (pushCount cnt) := by
  have lanes : List.range (pushCount cnt) = (List.range 4).take (pushCount cnt) := by
    rw [List.take_range, Nat.min_eq_left (show pushCount cnt ≤ 4 from cnt.isLt)]
  rw [pushBytes, lanes, List.map_take]
  rfl

end Sys2Proof.Machine

namespace Sys2Proof

open Machine

/-- Settles O15: every command has the effect of a latched form of it, and that is a next state. -/
theorem everyCommandCompletes : Obligations.EveryCommandCompletes := by
  intro i s
  obtain ⟨_, -, h⟩ := exec_eq_execute i s
  exact ⟨_, h⟩

/-- Settles O17: by the cases of START with the operands latched in PENDING. -/
theorem startBeginsKeyOrRecordsError : Obligations.StartBeginsKeyOrRecordsError := by
  intro s k size seed hp
  have run : exec .start s = .next { s with toEngine := s.toEngine.start k size seed } := exec_pending hp
  rw [run]
  refine ⟨fun poison => ?_, fun noError illegal => ?_, fun noError hk hK hsize => ?_, fun noError hk hK hsize => ?_⟩
  · rw [Engine.start_of_error k size seed poison]
  · rw [Engine.start_of_illegal_k size seed noError illegal]
  · rw [hsize, Engine.start_of_size_zero seed noError hk hK]
  · rw [Engine.start_of_legal seed noError hk hK hsize]
    rfl

/-- Settles O18: by the cases of PUSH with the data latched in PENDING. -/
theorem pushAppendsOrRecordsError : Obligations.PushAppendsOrRecordsError := by
  intro s cnt data hp
  have run : exec (.push cnt) s = .next { s with toEngine := s.toEngine.push cnt data } := exec_pending hp
  rw [run]
  refine ⟨fun poison => ?_, fun noError phase => ?_, fun noError absorb long => ?_, fun noError absorb room => ?_⟩
  · rw [Engine.push_of_error cnt data poison]
  · rw [Engine.push_of_not_absorb cnt data noError phase]
  · rw [Engine.push_of_no_room data noError absorb long]
  · rw [Engine.push_of_room data noError absorb room, pushBytes_eq_take]
    rfl

/-- Settles O19: by the cases of FINISH, and lane by lane of what it leaves in ABSORB. -/
theorem finishHashesActiveLanes : Obligations.FinishHashesActiveLanes := by
  intro s
  have run : exec .finish s = .next { s with toEngine := s.toEngine.finish } := rfl
  rw [run]
  refine ⟨fun poison => ?_, fun noError phase => ?_, fun noError absorb => ?_⟩
  · rw [Engine.finish_of_error poison]
  · rw [Engine.finish_of_not_absorb noError phase]
  · rw [Engine.finish_of_absorb noError absorb]
    refine ⟨_, rfl, rfl, fun i h => ⟨fun active => ?active, fun inactive => ?inactive⟩⟩
    case active =>
      obtain ⟨digest, reduced⟩ := s.toEngine.closeKey_resultsOfKey rfl i h active
      exact ⟨digest, fun hsize => by rw [reduced hsize, digest]; rfl⟩
    case inactive =>
      rw [Engine.closeKey_digest, Engine.closeKey_bitidx, if_neg (Nat.not_lt.mpr inactive),
        if_neg (Nat.not_lt.mpr inactive)]
      exact ⟨rfl, rfl⟩

/-- Settles O20: this is `Engine.recover`, field by field. -/
theorem abortRecovers : Obligations.AbortRecovers := fun _ => rfl

/-- Settles O21: a poisoned engine skips every command but ABORT, and no register write takes an error back. -/
theorem poisonSkipsCommands : Obligations.PoisonSkipsCommands := by
  refine ⟨fun i s poison _ notAbort => ?_, fun s t h poison cleared => ?_⟩
  · obtain ⟨c, rfl, run⟩ := exec_eq_execute i s
    rw [run, Engine.execute_of_error poison (by rintro rfl; exact notAbort rfl)]
  · have changed : t.errcode ≠ s.errcode := by rw [cleared]; exact poison.symm
    obtain ⟨-, -, he⟩ | ⟨hm, c, hp, he⟩ | ⟨hr, -, -⟩ | ⟨_, _, -, -, -, ⟨_, -, he⟩ | ⟨off, v, -, -, he⟩⟩ := step_engine h
    · exact absurd (by rw [he]) changed
    · refine .inl ⟨hm, ?_⟩
      by_cases habort : c = .abort
      · rw [hp, habort]
      · exact absurd (by rw [he, Engine.execute_of_error poison habort]) changed
    · exact .inr hr
    · exact absurd (by rw [he]) changed
    · exact absurd (by rw [he, Engine.regWrite_errcode_of_error poison]) changed

end Sys2Proof
end

section
/-! The results in DONE (42_commands.md R147): every command keeps them those of KEY. -/

namespace Sys2Proof.Machine.Engine

variable {K : Nat} {e : Engine K}

/-- Outside DONE nothing is said of the lanes. -/
theorem resultsOfKey_of_not_done (phase : e.phase ≠ .done) : e.ResultsOfKey := fun done => absurd done phase

/-- The statement does not see the host-owned registers, PENDING and ERRCODE. -/
theorem ResultsOfKey.of_writes (results : e.ResultsOfKey) {cfgK cfgSize seed keydata : Word} {pending : Option Command}
    {code : ErrCode} :
    ResultsOfKey { e with cfgK := cfgK, cfgSize := cfgSize, seed := seed, keydata := keydata, pending := pending,
                          errcode := code } := results

/-- FINISH establishes the results, START and ABORT leave DONE, and PUSH appends in ABSORB alone. -/
theorem ResultsOfKey.execute (results : e.ResultsOfKey) (c : Command) : (e.execute c).ResultsOfKey := by
  cases c with
  | nop => exact results
  | start k size seed =>
    change (e.start k size seed).ResultsOfKey
    obtain ⟨-, h⟩ | ⟨-, -, h⟩ | ⟨-, -, -, -, h⟩ | ⟨-, -, -, -, h⟩ := start_cases k size seed e <;> rw [h]
    · exact results
    · exact results.of_writes
    · exact results.of_writes
    · exact resultsOfKey_of_not_done (by simp)
  | push cnt data =>
    change (e.push cnt data).ResultsOfKey
    obtain ⟨-, h⟩ | ⟨-, -, h⟩ | ⟨-, -, -, h⟩ | ⟨-, absorb, -, h⟩ := push_cases cnt data e <;> rw [h]
    · exact results
    · exact results.of_writes
    · exact results.of_writes
    · exact resultsOfKey_of_not_done (by simp [absorb])
  | finish =>
    change e.finish.ResultsOfKey
    obtain ⟨-, h⟩ | ⟨-, -, h⟩ | ⟨-, -, h⟩ := finish_cases e <;> rw [h]
    · exact results
    · exact results.of_writes
    · exact e.closeKey_resultsOfKey
  | abort => exact resultsOfKey_of_not_done (by simp [Engine.execute])

end Sys2Proof.Machine.Engine

namespace Sys2Proof

open Machine

/-- Settles O45: a command keeps the results those of KEY, a reset leaves DONE, and no host writes what is said of. -/
theorem stepKeepsResultsOfKey : Obligations.StepKeepsResultsOfKey := by
  intro s t results h
  obtain ⟨-, -, he⟩ | ⟨-, c, -, he⟩ | ⟨-, -, he⟩ | ⟨_, _, hs, -⟩ := step_engine h
  · rwa [he]
  · rw [he]
    exact (results.execute c).of_writes
  · rw [he]
    exact Engine.resultsOfKey_of_not_done (by simp)
  · obtain ⟨_, _, _, _, _, _, he⟩ := step_host_writes hs h
    rw [he]
    exact results.of_writes

end Sys2Proof
end

section
/-! Issue and the engine step (42_commands.md R140 to R142), as whole next states. -/

namespace Sys2Proof.Machine

namespace Engine

variable {K : Nat} {e : Engine K}

/-- A legal word written to CMD of a free engine is captured with the operands of the moment, poisoned or not
(42_commands.md R140, R141). -/
theorem issue_of_decode (free : e.pending = none) {w : Word} {i : Instr} (hd : decode w = .ok i) :
    e.issue w = { e with pending := some (e.latch i) } := by simp [issue, free, hd]

/-- A word written to CMD of a busy engine is dropped (60_exceptions.md R162). -/
theorem issue_of_pending {c : Command} (busy : e.pending = some c) (w : Word) : e.issue w = e.recordErr .busy := by
  simp [issue, busy]

/-- No command reads a host-owned register: its operands were latched (10_state.md R21, 42_commands.md R141). -/
theorem execute_with_registers (e : Engine K) (c : Command) (cfgK cfgSize seed keydata : Word) :
    ({ e with cfgK := cfgK, cfgSize := cfgSize, seed := seed, keydata := keydata } : Engine K).execute c =
      { e.execute c with cfgK := cfgK, cfgSize := cfgSize, seed := seed, keydata := keydata } := by
  cases c with
  | nop => rfl
  | start k size seed =>
    obtain ⟨he, h⟩ | ⟨he, hk, h⟩ | ⟨he, hk, hK, hs, h⟩ | ⟨he, hk, hK, hs, h⟩ := start_cases k size seed e <;>
      rw [execute, execute, h]
    · exact start_of_error _ _ _ he
    · exact start_of_illegal_k _ _ he hk
    · subst hs
      exact start_of_size_zero _ he hk hK
    · exact start_of_legal _ he hk hK hs
  | push cnt data =>
    obtain ⟨he, h⟩ | ⟨he, ha, h⟩ | ⟨he, ha, hl, h⟩ | ⟨he, ha, hl, h⟩ := push_cases cnt data e <;>
      rw [execute, execute, h]
    · exact push_of_error _ _ he
    · exact push_of_not_absorb _ _ he ha
    · exact push_of_no_room _ he ha hl
    · exact push_of_room _ he ha hl
  | finish =>
    obtain ⟨he, h⟩ | ⟨he, ha, h⟩ | ⟨he, ha, h⟩ := finish_cases e <;> rw [execute, execute, h]
    · exact finish_of_error he
    · exact finish_of_not_absorb he ha
    · exact finish_of_absorb he ha
  | abort => rfl

/-- The engine's turn does not read a host-owned register. -/
theorem settle_with_registers (e : Engine K) (cfgK cfgSize seed keydata : Word) :
    ({ e with cfgK := cfgK, cfgSize := cfgSize, seed := seed, keydata := keydata } : Engine K).settle =
      { e.settle with cfgK := cfgK, cfgSize := cfgSize, seed := seed, keydata := keydata } := by
  obtain h | ⟨c, h⟩ := e.pending.eq_none_or_eq_some
  · rw [settle_of_pending_none h]
    exact settle_of_pending_none h
  · rw [settle_of_pending_some h]
    refine Eq.trans (settle_of_pending_some h) ?_
    rw [execute_with_registers]

/-- The engine's turn does not write a host-owned register (10_state.md R21). -/
theorem settle_writes (e : Engine K) :
    ∃ key actK actSize actSeed digest bitidx phase code pending, e.settle =
      { e with key := key, actK := actK, actSize := actSize, actSeed := actSeed, digest := digest, bitidx := bitidx,
               phase := phase, errcode := code, pending := pending } := by
  cases h : e.pending with
  | none => exact ⟨_, _, _, _, _, _, _, _, _, settle_of_pending_none h⟩
  | some c =>
    obtain ⟨_, _, _, _, _, _, _, _, writes⟩ := execute_writes c e
    rw [settle_of_pending_some h, writes]
    exact ⟨_, _, _, _, _, _, _, _, _, rfl⟩

/-- The engine's turn leaves the operands an issue would latch. -/
theorem latch_settle (e : Engine K) (i : Instr) : e.settle.latch i = e.latch i := by
  obtain ⟨_, _, _, _, _, _, _, _, _, writes⟩ := e.settle_writes
  rw [writes]
  cases i <;> rfl

/-- Staging an operand register commutes with the engine's turn (70_reset_and_hazards.md R188). -/
theorem settle_regWrite_staged (e : Engine K) {off : Offset} (v : Word)
    (staged : off = 0x00C#12 ∨ off = 0x010#12 ∨ off = 0x014#12 ∨ off = 0x018#12) :
    (e.regWrite off v).settle = e.settle.regWrite off v := by
  obtain ⟨_, _, _, _, _, _, _, _, _, writes⟩ := e.settle_writes
  obtain rfl | rfl | rfl | rfl := staged
  · exact (e.settle_with_registers v e.cfgSize e.seed e.keydata).trans (by rw [writes]; rfl)
  · exact (e.settle_with_registers e.cfgK v e.seed e.keydata).trans (by rw [writes]; rfl)
  · exact (e.settle_with_registers e.cfgK e.cfgSize v e.keydata).trans (by rw [writes]; rfl)
  · exact (e.settle_with_registers e.cfgK e.cfgSize e.seed v).trans (by rw [writes]; rfl)

/-- An ABORT that is pending erases the error (42_commands.md R148). -/
theorem settle_of_abort (h : e.pending = some .abort) : e.settle.errcode = .noError := by
  rw [settle_of_pending_some h]
  rfl

end Engine

/-- The engine's turn, from what the pending command answers (42_commands.md R142). -/
theorem engineTurn_of_exec {s t : State} {c : Command} (hp : s.pending = some c) (run : exec c.instr s = .next t) :
    engineTurn s = .next { t with pending := none } := by
  rw [engineTurn_pending hp, run]
  rfl

/-- The step of the engine's turn: the next in the schedule, or none is left (log entry 1). -/
theorem step_of_engineMoves_settle {s : State} (moves : s.engineMoves) :
    step s = .next { s with schedule := s.schedule.tail, toEngine := s.toEngine.settle } := by
  obtain hs | hs := moves
  · rw [step_empty hs, engineTurn_settle, hs, List.tail_nil, ← hs]
  · obtain ⟨rest, hs⟩ := List.head?_eq_some_iff.mp hs
    rw [step_event hs, hs]
    exact engineTurn_settle _

/-- The step of the engine's turn in the schedule. -/
theorem step_engine_turn {s : State} {rest : List Event} (hs : s.schedule = .engine :: rest) :
    step s = .next { s with schedule := rest, toEngine := s.toEngine.settle } := by
  rw [step_event hs]
  exact engineTurn_settle _

/-- The step of a write to CMD is an issue (20_memory.md R64). -/
theorem step_write_cmd {s : State} {w : Word} {rest : List Event}
    (hs : s.schedule = .host (.write .bits32 0x000#12 w) :: rest) :
    step s = .next { s with schedule := rest, toEngine := s.toEngine.issue w } :=
  step_write rfl hs

/-- The engine's turn leaves the schedule. -/
theorem engineTurn_schedule {s t : State} (h : engineTurn s = .next t) : t.schedule = s.schedule := by
  rw [engineTurn_settle] at h
  cases h
  rfl

/-- A step uses up the first event of the schedule, if there is one. -/
theorem step_schedule {s t : State} (h : step s = .next t) : t.schedule = s.schedule.tail := by
  obtain ⟨hs, h⟩ | ⟨rest, hs, h⟩ | ⟨rest, hs, rfl⟩ | ⟨rest, tr, hs, h⟩ := step_cases h
  · simp [engineTurn_schedule h, hs]
  · simp [engineTurn_schedule h, hs]
  · simp [hs]
  · obtain ⟨_, _, _, rfl⟩ | ⟨_, _, _, _, rfl⟩ := transact_cases h <;> simp [hs]

/-- A command pending as it was latched from an instruction is what that instruction means. -/
theorem exec_latched {s : State} {e : Engine Config.kMax} {i : Instr} (hp : s.pending = some (e.latch i)) :
    exec i s = .next { s with toEngine := s.toEngine.execute (e.latch i) } := by
  have run := exec_pending hp
  rwa [Engine.latch_instr] at run

/-- A word that decodes, placed for the next step, stands in PENDING (log entry 8). -/
theorem withFetchWord_pending (s : State) {w : Nat} {i : Instr} (small : w < 2 ^ 32)
    (hd : decode (BitVec.ofNat 32 w) = .ok i) :
    (s.withFetchWord 32 w).pending = some ((clearPending s).toEngine.latch i) := by
  rw [State.withFetchWord, Nat.mod_eq_of_lt small, if_pos small, placeCommand,
    Engine.issue_of_decode (clearPending_pending s) hd]

/-- Placing a word leaves an empty schedule empty. -/
theorem withFetchWord_schedule_nil {s : State} (nbits w : Nat) (hs : s.schedule = []) :
    (s.withFetchWord nbits w).schedule = [] := by
  rw [State.withFetchWord]
  split
  · rw [placeCommand, hs, engineFirst]
  · exact hs

/-- A run goes on from where its first step led. -/
theorem run_succ {s t : State} (h : step s = .next t) (n : Nat) : core.run (n + 1) s = core.run n t := by
  have first : core.step s = .next t := h
  simp only [Host.Core.run, first]

end Sys2Proof.Machine

namespace Sys2Proof

open Machine

/-- Settles O16: the engine's turn on a pending NOP clears PENDING. -/
theorem nopOnlyClearsBusy : Obligations.NopOnlyClearsBusy := by
  refine fun s => ⟨rfl, fun hp moves => ?_⟩
  rw [step_of_engineMoves_settle moves, Engine.settle_of_pending_some hp]
  rfl

/-- Settles O25: the engine's turn, with a command pending and without one. -/
theorem engineStepRunsPending : Obligations.EngineStepRunsPending := by
  refine fun s rest => ⟨fun c t hp hs run => ?_, fun c t hp hs run => ?_, fun hp hs => ?_, fun hp hs => ?_⟩
  · rw [step_empty hs]
    exact engineTurn_of_exec hp run
  · rw [step_event hs]
    exact engineTurn_of_exec (s := { s with schedule := rest }) hp run
  · rw [step_empty hs, engineTurn_idle hp]
  · rw [step_engine_turn hs, Engine.settle_of_pending_none hp]

/-- Settles O24: an issue captures the command with its operands, and no write elsewhere than to CMD touches PENDING. -/
theorem issueLatchesOperands : Obligations.IssueLatchesOperands := by
  refine ⟨fun s w i rest hd hs free => ?_, fun s t off v rest notCmd hs h => ?_⟩
  · rw [step_write_cmd hs, Engine.issue_of_decode free hd]
    cases i <;> rfl
  · obtain he | ⟨_, _, htr, he⟩ := step_of_host hs h
    · rw [he]
    · cases htr
      rw [he]
      exact (s.toEngine.regWrite_of_ne_cmd v notCmd).left

/-- Settles O26: the issue latches the command, and the engine's turn runs it. -/
theorem issuedWordRunsOnNextTurn : Obligations.IssuedWordRunsOnNextTurn := by
  intro s w i rest hd free hs
  have issued := step_write_cmd hs
  rw [Engine.issue_of_decode free hd] at issued
  refine ⟨_, _, issued, rfl, ⟨_, rfl, s.toEngine.latch_instr i⟩, exec_latched rfl, ?_⟩
  rw [step_engine_turn rfl, Engine.settle_of_pending_some rfl]

/-- Settles O27: the placed word stands in PENDING, and the step is the engine's turn. -/
theorem placedWordRunsAtOnce : Obligations.PlacedWordRunsAtOnce := by
  intro s w i small hd hs
  have pending := withFetchWord_pending s small hd
  refine ⟨_, exec_latched pending, ?_⟩
  rw [step_empty (withFetchWord_schedule_nil 32 w hs), engineTurn_effect pending]

/-- Settles O28: the engine's turn neither reads nor writes the register that is staged. -/
theorem stagingCommutesWithEngineStep : Obligations.StagingCommutesWithEngineStep := by
  intro s c off v _ staged
  have aligned : off.toNat % 4 = 0 := by obtain rfl | rfl | rfl | rfl := staged <;> rfl
  refine ⟨{ s with schedule := [], toEngine := (s.toEngine.regWrite off v).settle }, ?_, ?_⟩
  · exact (run_succ (step_write aligned rfl) 1).trans (run_succ (step_engine_turn rfl) 0)
  · rw [s.toEngine.settle_regWrite_staged v staged]
    exact (run_succ (step_engine_turn rfl) 1).trans (run_succ (step_write aligned rfl) 0)

/-- Settles O29: the second issue finds the engine busy or free according to the engine's turn, which leaves the operands
it latches. -/
theorem unwaitedWriteHasTwoOutcomes : Obligations.UnwaitedWriteHasTwoOutcomes := by
  intro s w1 w2 i1 i2 hd1 hd2 free noError
  have first := Engine.issue_of_decode free hd1
  have second : (s.toEngine.issue w1).issue w2 =
      { s.toEngine with pending := some (s.toEngine.latch i1), errcode := .busy } := by
    rw [first, Engine.issue_of_pending rfl]
    exact Engine.recordErr_of_noError .busy noError
  refine ⟨⟨_, (run_succ (step_write_cmd rfl) 1).trans (run_succ (step_write_cmd rfl) 0), second⟩,
    ⟨_, (run_succ (step_write_cmd rfl) 2).trans ((run_succ (step_engine_turn rfl) 1).trans
      (run_succ (step_write_cmd rfl) 0)), ?accepted⟩,
    fun habort => ⟨_, (run_succ (step_write_cmd rfl) 2).trans ((run_succ (step_write_cmd rfl) 1).trans
      (run_succ (step_engine_turn rfl) 0)), Engine.settle_pending _, ?erased⟩⟩
  case accepted =>
    change ((s.toEngine.issue w1).settle.issue w2).pending = _
    rw [Engine.issue_of_decode (Engine.settle_pending _) hd2, Engine.latch_settle, first]
    cases i2 <;> rfl
  case erased =>
    subst habort
    change ((s.toEngine.issue w1).issue w2).settle.errcode = _
    rw [second]
    exact Engine.settle_of_abort rfl

/-- Settles O30, by induction on the schedule: an admitted event goes on and leaves the rest, and the turn after the last
leaves nothing pending. -/
theorem admittedRunEndsWithNothingPending : Obligations.AdmittedRunEndsWithNothingPending := by
  intro s safe
  induction hs : s.schedule generalizing s with
  | nil =>
    refine ⟨_, run_succ (step_of_engineMoves_settle (.inl hs)) 0, ?_, Engine.settle_pending _⟩
    simp [hs]
  | cons ev rest ih =>
    obtain ⟨t, h⟩ := step_completes fun ev hev => safe ev (List.mem_of_mem_head? hev)
    have left : t.schedule = rest := by rw [step_schedule h, hs, List.tail_cons]
    obtain ⟨u, run, ended⟩ := ih t (fun ev hev => safe ev (by rw [hs]; exact .tail _ (left ▸ hev))) left
    exact ⟨u, (run_succ h _).trans run, ended⟩

end Sys2Proof
end

section
/-! Errors (60_exceptions.md R161, R162, R169): the first one stays, and recording one changes nothing else. -/

namespace Sys2Proof.Machine

namespace Engine

variable {K : Nat} {e : Engine K}

/-- Recording an error, ERRCODE written out (60_exceptions.md R161). -/
theorem recordErr_eq (c : ErrCode) (e : Engine K) :
    e.recordErr c = { e with errcode := if e.errcode = .noError then c else e.errcode } := by
  by_cases h : e.errcode = .noError
  · rw [recordErr_of_noError c h, if_pos h]
  · rw [recordErr_of_error c h, if_neg h]

/-- A command that records an error has no other effect (60_exceptions.md R169). -/
theorem execute_of_recorded (noError : e.errcode = .noError) {c : Command}
    (recorded : (e.execute c).errcode ≠ .noError) : e.execute c = { e with errcode := (e.execute c).errcode } := by
  cases c with
  | nop => rfl
  | start k size seed =>
    rw [execute] at recorded ⊢
    obtain ⟨-, h⟩ | ⟨-, -, h⟩ | ⟨-, -, -, -, h⟩ | ⟨-, -, -, -, h⟩ := start_cases k size seed e <;> rw [h] at recorded ⊢
    exact absurd noError recorded
  | push cnt data =>
    rw [execute] at recorded ⊢
    obtain ⟨-, h⟩ | ⟨-, -, h⟩ | ⟨-, -, -, h⟩ | ⟨-, -, -, h⟩ := push_cases cnt data e <;> rw [h] at recorded ⊢
    exact absurd noError recorded
  | finish =>
    rw [execute] at recorded ⊢
    obtain ⟨-, h⟩ | ⟨-, -, h⟩ | ⟨-, -, h⟩ := finish_cases e <;> rw [h] at recorded ⊢
    exact absurd noError recorded
  | abort => exact absurd rfl recorded

/-- The engine's turn that records an error writes PENDING besides, and nothing else. -/
theorem settle_of_recorded (noError : e.errcode = .noError) (recorded : e.settle.errcode ≠ .noError) :
    e.settle = { e with errcode := e.settle.errcode, pending := none } := by
  cases hp : e.pending with
  | none => exact absurd (by rw [settle_of_pending_none hp, noError]) recorded
  | some c =>
    rw [settle_of_pending_some hp] at recorded ⊢
    rw [execute_of_recorded noError recorded]

/-- An issue that records an error does not touch PENDING (60_exceptions.md R162, R163). -/
theorem issue_of_recorded (noError : e.errcode = .noError) {w : Word} (recorded : (e.issue w).errcode ≠ .noError) :
    e.issue w = { e with errcode := (e.issue w).errcode } := by
  obtain ⟨-, h⟩ | ⟨-, -, h⟩ | ⟨_, -, -, h⟩ := issue_cases e w
  · rw [h, recordErr_of_noError _ noError]
  · rw [h, recordErr_of_noError _ noError]
  · exact absurd (by rw [h, noError]) recorded

/-- A poisoned engine's turn only drops the pending command, if that is no ABORT (42_commands.md R143). -/
theorem settle_of_error (poison : e.errcode ≠ .noError) (notAbort : e.pending ≠ some .abort) :
    e.settle = { e with pending := none } := by
  cases hp : e.pending with
  | none => rw [settle_of_pending_none hp, ← hp]
  | some c =>
    rw [settle_of_pending_some hp, execute_of_error poison]
    rintro rfl
    exact notAbort hp

end Engine

/-- A step from a poisoned state keeps the error, or is the engine step of ABORT or a reset and clears it. -/
theorem step_errcode_of_error {s t : State} (h : step s = .next t) (poison : s.errcode ≠ .noError) :
    t.errcode = s.errcode ∨
    (t.errcode = .noError ∧ ((s.engineMoves ∧ s.pending = some .abort) ∨ s.resetMoves)) := by
  obtain ⟨-, -, he⟩ | ⟨moves, c, hp, he⟩ | ⟨reset, -, he⟩ | ⟨_, _, -, -, -, ⟨_, -, he⟩ | ⟨off, v, -, -, he⟩⟩ :=
    step_engine h
  · exact .inl (by rw [he])
  · by_cases abort : c = .abort
    · subst abort
      exact .inr ⟨by rw [he]; rfl, .inl ⟨moves, hp⟩⟩
    · exact .inl (by rw [he, Engine.execute_of_error poison abort])
  · exact .inr ⟨by rw [he]; rfl, .inr reset⟩
  · exact .inl (by rw [he])
  · exact .inl (by rw [he, Engine.regWrite_errcode_of_error poison])

end Sys2Proof.Machine

namespace Sys2Proof

open Machine

/-- Settles O36: by the two cases of `Engine.recordErr`, and by what each event does to a recorded error. -/
theorem firstErrorSticks : Obligations.FirstErrorSticks :=
  ⟨fun _ c => ⟨Engine.recordErr_of_noError c, Engine.recordErr_of_error c⟩, fun _ _ => step_errcode_of_error⟩

/-- Settles O38: an error is new only in a state without one, and then it comes from the pending command or from an issue;
neither writes anything besides. -/
theorem errorsArePrecise : Obligations.ErrorsArePrecise := by
  refine fun s t h => ⟨fun changed recorded => ?_, fun moves poison _ notAbort => ?_⟩
  · have noError : s.errcode = .noError := by
      refine Decidable.byContradiction fun poison => ?_
      obtain kept | ⟨cleared, -⟩ := step_errcode_of_error h poison
      · exact changed kept
      · exact recorded cleared
    refine ⟨noError, fun moves => ?engine, fun notMoves => ?host⟩
    case engine =>
      rw [step_of_engineMoves_settle moves] at h
      cases h
      exact Engine.settle_of_recorded noError recorded
    case host =>
      obtain ⟨w, issues, -⟩ | ⟨moves, -⟩ := (step_errcode_iff h noError recorded).mp rfl
      · have issued := step_of_hostIssues issues h
        rw [issued] at recorded ⊢
        exact Engine.issue_of_recorded noError recorded
      · exact absurd moves notMoves
  · rw [step_of_engineMoves_settle moves] at h
    cases h
    exact Engine.settle_of_error poison notAbort

/-- Settles O23: the write is an issue to a busy engine, which records ERR_BUSY and drops the word. -/
theorem busyWriteIsDropped : Obligations.BusyWriteIsDropped := by
  intro s w c rest hs busy
  rw [step_write_cmd hs, Engine.issue_of_pending busy, Engine.recordErr_eq]

end Sys2Proof
end

section
/-! Reset (70_reset_and_hazards.md R180, R181, R184): what the event leaves, and the key the reset configuration hashes. -/

namespace Sys2Proof.Machine

/-- A reset at the head of the order is consumed and acts on the state without it. -/
theorem step_reset_turn {s : State} {rest : List Event} (hs : s.schedule = .reset :: rest) :
    step s = .next (resetEvent { s with schedule := rest }) := by
  rw [step_event hs, runEvent]

/-- START issued right after reset latches k = 1, size = 1 and seed = 0 (10_state.md R44, 42_commands.md R141). -/
theorem Engine.latch_start_reset (K : Nat) : (Engine.reset K).latch .start = .start 1#32 1#32 0#32 := rfl

/-- The lane seed of lane 0 is the seed itself (41_address_decoder.md R120). -/
theorem laneSeed_zero (seed : Word) : laneSeed seed 0 = seed := BitVec.add_zero seed

end Sys2Proof.Machine

namespace Sys2Proof

open Machine

/-- Settles O42: whatever was pending, the event replaces the whole engine. -/
theorem resetEventRestoresEverything : Obligations.ResetEventRestoresEverything :=
  fun _ _ hs => step_reset_turn hs

/-- Settles O48: the latched operands are legal and make lane 0 the one active lane, with lane seed 0; one byte of bit
array keeps the digest's low three bits. -/
theorem resetConfigurationHashes : Obligations.ResetConfigurationHashes := by
  rintro pushes x rfl room
  have start : State.reset.toEngine.latch .start = .start 1#32 1#32 0#32 := Engine.latch_start_reset _
  obtain ⟨filled, run, -, -, -, key, actK, actSize, actSeed⟩ :=
    Engine.afterCommands_wholeKey (e := State.reset.toEngine) (k := 1#32) (size := 1#32) 0#32 pushes rfl (by decide)
      kMax_pos (by decide) room
  have active : 0 < filled.actK.toNat := by rw [actK]; decide
  refine ⟨_, runCommands_eq _ State.reset, fun h => ?_⟩
  rw [start, run, Engine.closeKey_digest, Engine.closeKey_bitidx, if_pos active, if_pos active, Engine.laneDigest, key,
    actSeed, laneSeed_zero, actSize, bitIndex_one]
  exact ⟨rfl, rfl⟩

end Sys2Proof
end
